-- ==== Sys2Proof/Word.lean ====
section
/-! DEFINITION. The widths the spec gives values: bytes, 16-bit working words, 20-bit subkey values, 32-bit words. -/

namespace Sys2Proof

/-- One byte of the buffer RAM (20_memory.md R60). -/
abbrev Byte := BitVec 8

/-- A 16-bit working word of the key-schedule engine (10_state.md R27). -/
abbrev Half := BitVec 16

/-- A subkey value (10_state.md R23). -/
abbrev Subval := BitVec 20

/-- A 32-bit word: host registers, SP-box entries, Feistel halves (10_state.md R24, R28, R31). -/
abbrev Word := BitVec 32

end Sys2Proof
end

