-- ==== Sys2Proof/Syntax.lean ====
section
/-! DEFINITION. The command words of the core as syntax: one constructor per row of spec/opcode_table.json. -/

namespace Sys2Proof

/-- A command: the row of the opcode table (30_encoding.md R95) with its CTX field, the context slot index (R94, R99).
Every operand comes from the latched A0..A3 (R97), so no other field exists. -/
inductive Instr where
  /-- OP 0x1, 44_cipher_engine.md R232. -/
  | construct (ctx : Nat)
  /-- OP 0x2, R233. -/
  | setkey (ctx : Nat)
  /-- OP 0x3, R234. -/
  | encrypt (ctx : Nat)
  /-- OP 0x4, R235. -/
  | decrypt (ctx : Nat)
  /-- OP 0x5, R236. -/
  | decryptbuf (ctx : Nat)
  /-- OP 0x6, R237. -/
  | clearkey (ctx : Nat)
  /-- OP 0x7, R238. -/
  | keysize (ctx : Nat)
  /-- OP 0x8, R239. -/
  | blocksize (ctx : Nat)
  /-- OP 0x0, reserved, R240. -/
  | reserved0 (ctx : Nat)
  /-- OP 0x9, reserved, R240. -/
  | reserved9 (ctx : Nat)
  /-- OP 0xA, reserved, R240. -/
  | reservedA (ctx : Nat)
  /-- OP 0xB, reserved, R240. -/
  | reservedB (ctx : Nat)
  /-- OP 0xC, reserved, R240. -/
  | reservedC (ctx : Nat)
  /-- OP 0xD, reserved, R240. -/
  | reservedD (ctx : Nat)
  /-- OP 0xE, reserved, R240. -/
  | reservedE (ctx : Nat)
  /-- OP 0xF, reserved, R240. -/
  | reservedF (ctx : Nat)
deriving DecidableEq, Repr

/-- The CTX field of a command (30_encoding.md R94). -/
def Instr.ctx : Instr → Nat
  | .construct c => c
  | .setkey c => c
  | .encrypt c => c
  | .decrypt c => c
  | .decryptbuf c => c
  | .clearkey c => c
  | .keysize c => c
  | .blocksize c => c
  | .reserved0 c => c
  | .reserved9 c => c
  | .reservedA c => c
  | .reservedB c => c
  | .reservedC c => c
  | .reservedD c => c
  | .reservedE c => c
  | .reservedF c => c

end Sys2Proof
end

