-- ==== Sys2Proof/WellFormed.lean ====
section
/-! DEFINITION. Which terms of `Instr` a command word can hold. -/

namespace Sys2Proof

/-- The CTX field has four bits (30_encoding.md R94): a slot index 0..15. Whether the slot is present (CTX < N_CTX) is
not a matter of form: the command itself reports INVALID_CONTEXT (R99). -/
abbrev Instr.WellFormed (i : Instr) : Prop := i.ctx < 16

end Sys2Proof
end

