-- ==== Sys2Proof/Decode.lean ====
section
/-! DEFINITION. Command words to instructions and back (30_encoding.md R94 to R101). -/

namespace Sys2Proof

/-- Why a command word is no instruction of the opcode table. -/
inductive DecodeReject where
  /-- RSV, bits 31:8, is not 0 (30_encoding.md R96). The step completes such a word with ILLEGAL_COMMAND
  (44_cipher_engine.md R231): safe, the spec's own outcome. -/
  | reservedBits
deriving DecidableEq, Repr

/-- What a command word decodes to. -/
inductive Decoded where
  | instr (i : Instr)
  | rejected (r : DecodeReject)
deriving DecidableEq, Repr

/-- OP, bits 3:0 (30_encoding.md R94). -/
def opField (w : Word) : BitVec 4 := w.extractLsb' 0 4

/-- CTX, bits 7:4 (30_encoding.md R94). -/
def ctxField (w : Word) : BitVec 4 := w.extractLsb' 4 4

/-- RSV, bits 31:8 (30_encoding.md R94). -/
def rsvField (w : Word) : BitVec 24 := w.extractLsb' 8 24

/-- The opcode map (30_encoding.md R95): OP and slot index to the command. OP has four bits, so the last arm is 0xF
alone (`instrOfOp_reservedF`). -/
def instrOfOp (op : BitVec 4) (c : Nat) : Instr :=
  match op.toNat with
  | 0x0 => .reserved0 c
  | 0x1 => .construct c
  | 0x2 => .setkey c
  | 0x3 => .encrypt c
  | 0x4 => .decrypt c
  | 0x5 => .decryptbuf c
  | 0x6 => .clearkey c
  | 0x7 => .keysize c
  | 0x8 => .blocksize c
  | 0x9 => .reserved9 c
  | 0xA => .reservedA c
  | 0xB => .reservedB c
  | 0xC => .reservedC c
  | 0xD => .reservedD c
  | 0xE => .reservedE c
  | _ => .reservedF c

/-- Decoding is total (30_encoding.md R100): a word with RSV = 0 is a row of the table, any other is rejected by
name. -/
def decode (w : Word) : Decoded :=
  if rsvField w = 0 then .instr (instrOfOp (opField w) (ctxField w).toNat)
  else .rejected .reservedBits

/-- OP of a command (30_encoding.md R95). -/
def Instr.op : Instr → BitVec 4
  | .reserved0 _ => 0x0
  | .construct _ => 0x1
  | .setkey _ => 0x2
  | .encrypt _ => 0x3
  | .decrypt _ => 0x4
  | .decryptbuf _ => 0x5
  | .clearkey _ => 0x6
  | .keysize _ => 0x7
  | .blocksize _ => 0x8
  | .reserved9 _ => 0x9
  | .reservedA _ => 0xA
  | .reservedB _ => 0xB
  | .reservedC _ => 0xC
  | .reservedD _ => 0xD
  | .reservedE _ => 0xE
  | .reservedF _ => 0xF

/-- The command word of an instruction: RSV = 0, CTX, OP (30_encoding.md R94). -/
def encode (i : Instr) : Word := (0 : BitVec 24) ++ BitVec.ofNat 4 i.ctx ++ i.op

/-- The instruction of a table word: bit 0 of `w` is bit 0 of the command word, which is written whole to CMD (R101), so
no byte order enters (20_memory.md R65 c). Bits at or above `nbits` are 0. -/
def decodeTableWord (nbits w : Nat) : Option Instr :=
  match decode (BitVec.ofNat 32 (w % 2 ^ nbits)) with
  | .instr i => some i
  | .rejected _ => none

end Sys2Proof
end

