-- ==== Sys2Proof/Machine/Galois.lean ====
section
/-! DEFINITION. The GF multiplier and the b^7 unit (40_galois_field.md). -/

namespace Sys2Proof.Machine

/-- The loop of GF_MUL (40_galois_field.md R121) with a bound on its iterations; an 8-bit `B` is 0 after 8. -/
def gfMulLoop (m : BitVec 9) : Nat → Byte → BitVec 9 → Byte → Byte
  | 0, acc, _, _ => acc
  | n + 1, acc, A, B =>
    if B = 0 then acc
    else
      let acc := if B.getLsbD 0 then acc ^^^ A.setWidth 8 else acc
      let A := A <<< 1
      gfMulLoop m n acc (if 256 ≤ A.toNat then A ^^^ m else A) (B >>> 1)

/-- GF_MUL (40_galois_field.md R120, R121), for a modulus in 256..511. -/
def gfMul (a b : Byte) (m : BitVec 9) : Byte := gfMulLoop m 8 0 (a.setWidth 9) b

/-- GF_EXP7 (40_galois_field.md R126, R127), for a modulus in 256..511. -/
def gfExp7 (b : Byte) (m : BitVec 9) : Byte :=
  if b = 0 then 0
  else
    let x := gfMul b b m
    let x := gfMul b x m
    let x := gfMul x x m
    gfMul b x m

/-- The multiplier exposed on its own: refuses inputs outside its domain (40_galois_field.md R125). -/
def gfMulPort (a b m : Nat) : Option Byte :=
  if a < 256 ∧ b < 256 ∧ 256 ≤ m ∧ m < 512 then
    some (gfMul (BitVec.ofNat 8 a) (BitVec.ofNat 8 b) (BitVec.ofNat 9 m))
  else none

/-- The b^7 unit exposed on its own: refuses inputs outside its domain (92_eei_decisions.md D34). -/
def gfExp7Port (b m : Nat) : Option Byte :=
  if b < 256 ∧ 256 ≤ m ∧ m < 512 then some (gfExp7 (BitVec.ofNat 8 b) (BitVec.ofNat 9 m)) else none

end Sys2Proof.Machine
end

