-- ==== Sys2Proof/Config.lean ====
section
/-! DEFINITION. What an implementation fixes (the three parameters of 00_scope.md R7) and the values the spec leaves
open (opaque constants with no body: nothing can be proved about their values). -/

namespace Sys2Proof

/-- The configuration parameters of 00_scope.md R7. State holds them, no step changes them, and every statement
quantifies over them (log 1). -/
structure Params where
  /-- N_CTX, the number of context slots, 1..16. -/
  nCtx : Nat
  /-- MAX_LEVEL, the largest level a slot can hold, 1..65535. -/
  maxLevel : Nat
  /-- BUF_BYTES, the size of the buffer RAM, 8..2^32. -/
  bufBytes : Nat
deriving DecidableEq, Repr

/-- The legal values of the parameters (00_scope.md R7). -/
abbrev Params.Legal (p : Params) : Prop :=
  (1 ≤ p.nCtx ∧ p.nCtx ≤ 16) ∧ (1 ≤ p.maxLevel ∧ p.maxLevel ≤ 65535) ∧ (8 ≤ p.bufBytes ∧ p.bufBytes ≤ 2 ^ 32)

/-- DESIGN CHOICE (unsafe, log 1): the parameters of `State.reset`, those of 95_test_vectors.md sections 8 and 10.
The spec leaves them OPEN; no statement rests on these numbers. -/
def Config.params : Params := { nCtx := 2, maxLevel := 4, bufBytes := 128 }

/-- The arbitrary value of the n-th read of a buffer byte that nothing has written (20_memory.md R66,
44_cipher_engine.md R230; 93_implementation_defined.md S1). Free value (log 5). -/
opaque Config.freeByte : Nat → Byte

/-- The unspecified 32-bit registers of the command engine after a command: use number, then register number
(93_implementation_defined.md S4). Free value (log 4). -/
opaque Config.freeWord : Nat → Nat → Word

/-- The unspecified working words of the key-schedule engine after a command: use number, then word number
(10_state.md R27; 93_implementation_defined.md S4). Free value (log 4). -/
opaque Config.freeHalf : Nat → Nat → Half

/-- The unspecified contents of an SP-box entry nothing has written: table, then index (10_state.md R24;
93_implementation_defined.md S3). Free value (log 6). -/
opaque Config.freeSpbox : Nat → Nat → Word

end Sys2Proof
end

