-- ==== Sys2Proof/Machine/State.lean ====
section
/-! DEFINITION. The state of the core as plain data (10_state.md), its host's pending accesses, and the state after
reset (70_reset_and_hazards.md R320). -/

namespace Sys2Proof.Machine

/-- Reasons a step stops the machine. There is none: command errors are completion codes in STATUS (60_exceptions.md
R286), and the model marks of R288 are fields of State that never end a command. -/
inductive Fault : Type
deriving DecidableEq, Repr

/-- Reasons an instruction is given no meaning. -/
inductive Refusal where
  /-- Raised by an arm of `exec` whose instruction has no meaning yet; no arm of this model does. Safe. -/
  | notModelled (mnemonic : String)
deriving DecidableEq, Repr

/-- PHASE (10_state.md R37). -/
inductive Phase where
  | idle
  | busy
deriving DecidableEq, Repr

/-- The error codes 1..8 (60_exceptions.md R280). -/
inductive ErrorCode where
  | illegalCommand
  | invalidContext
  | notConstructed
  | levelUnsupported
  | invalidKeyLength
  | invalidBlockLength
  | invalidOutputCapacity
  | addressRange
deriving DecidableEq, Repr

/-- The stored STATUS fields (10_state.md R32). BUSY is PHASE (R37) and SPBOX_BUILT is the state bit of R25: each is
stored once, and `statusWord` shows them (log 14). -/
structure Status where
  done : Bool
  err : Bool
  errCode : BitVec 4
  overrun : Bool
deriving DecidableEq, Repr

/-- The working words kb[0..4] (10_state.md R27). -/
structure KeyWords where
  w0 : Half
  w1 : Half
  w2 : Half
  w3 : Half
deriving DecidableEq, Repr

/-- One subkey triple sched[k][0..3] (10_state.md R21, R23). -/
structure Subkey where
  s0 : Subval
  s1 : Subval
  s2 : Subval
deriving DecidableEq, Repr

/-- The triple CONSTRUCT, CLEARKEY and reset leave (44_cipher_engine.md R232, R237; 70_reset_and_hazards.md R323). -/
def Subkey.zero : Subkey := { s0 := 0, s1 := 0, s2 := 0 }

/-- One context slot (10_state.md R21). -/
structure Ctx where
  valid : Bool
  size : BitVec 16
  rounds : BitVec 21
  /-- Entry k is sched[k]; the storage has 16·MAX_LEVEL entries (R21). -/
  sched : List Subkey
deriving DecidableEq, Repr

/-- An all-zero schedule of the hardware's whole storage (10_state.md R21). -/
def zeroSched (p : Params) : List Subkey := List.replicate (16 * p.maxLevel) Subkey.zero

/-- A slot after reset (10_state.md R21). -/
def Ctx.reset (p : Params) : Ctx := { valid := false, size := 0, rounds := 0, sched := zeroSched p }

/-- The SP-box table: four banks (41_spbox.md R153). Bank t lists the entries written since reset, from entry 0 up; an
entry it does not list is unspecified (10_state.md R24, log 6). -/
structure SpBox where
  t0 : List Word
  t1 : List Word
  t2 : List Word
  t3 : List Word
deriving DecidableEq, Repr

/-- The registers that live only inside a command: the latches (10_state.md R36), the working words (R27) and the Feistel
halves (R28). -/
structure Engine where
  lcmd : Word
  la0 : Word
  la1 : Word
  la2 : Word
  la3 : Word
  kb : KeyWords
  l : Word
  r : Word
deriving DecidableEq, Repr

/-- The buffer RAM as the bytes written since reset, by rising address. A listed address is one with W[a] = 1; an
unlisted one has W[a] = 0 and no value (10_state.md R34, R35; log 5). -/
abbrev Memory := List Host.Cell

/-- The canonical form: addresses strictly rising. (No listed byte can equal what an unlisted address reads as, since that
is no value at all.) -/
abbrev Memory.wf (m : Memory) : Prop := m.Pairwise fun x y => x.1 < y.1

/-- A record of the FAULT set (10_state.md R38). -/
inductive FaultRecord where
  /-- SPBOX was read while SPBOX_BUILT = 0 (93_implementation_defined.md S3). No run reaches it. -/
  | spboxUnbuilt
  /-- BUF[a] was read with W[a] = 0 (20_memory.md R66). -/
  | uninitRead (a : Nat)
deriving DecidableEq, Repr

/-- The place of a record in the canonical listing of the FAULT set (log 16). -/
def FaultRecord.rank : FaultRecord → Nat
  | .spboxUnbuilt => 0
  | .uninitRead a => a + 1

/-- A host access or the reset input (30_encoding.md R91; 20_memory.md R61; 70_reset_and_hazards.md R320). -/
inductive HostOp where
  | regWrite (i : Fin 16) (v : Word)
  | regRead (i : Fin 16)
  | bufWrite (a : Nat) (v : Byte)
  | bufRead (a : Nat)
  | reset
deriving DecidableEq, Repr

/-- A pending host access. `early` says, should it find the core BUSY, whether it lands before PERFORM (when the core does
not hold it) or after: the interleaving 44_cipher_engine.md R230 leaves open, as plain data (log 8). -/
structure HostReq where
  op : HostOp
  early : Bool
deriving DecidableEq, Repr

/-- What a host read returned. -/
inductive HostRead where
  | reg (i : Fin 16) (v : Word)
  | buf (a : Nat) (v : Byte)
deriving DecidableEq, Repr

/-- The state: the parameters, everything 10_state.md R39 lists, and the model's own `host`, `hostReads` and
`freeCount`. -/
structure State where
  /-- N_CTX, MAX_LEVEL, BUF_BYTES (00_scope.md R7); CAP and BUFSZ show them (10_state.md R31). -/
  params : Params
  /-- PHASE (R37). -/
  phase : Phase
  /-- LCMD, LA0..LA3, kb, L, R (R36, R27, R28). -/
  eng : Engine
  /-- REG.CMD (R31). -/
  cmd : Word
  /-- REG.A0 (R31). -/
  a0 : Word
  /-- REG.A1 (R31). -/
  a1 : Word
  /-- REG.A2 (R31). -/
  a2 : Word
  /-- REG.A3 (R31). -/
  a3 : Word
  /-- The stored fields of REG.STATUS (R32). -/
  status : Status
  /-- REG.RESULT (R31). -/
  result : Word
  /-- SPBOX_BUILT (R25). -/
  spboxBuilt : Bool
  /-- SPBOX (R24). -/
  spbox : SpBox
  /-- ctx[0..N_CTX] (R21). -/
  ctxs : List Ctx
  /-- BUF and W (R34, R35). -/
  buf : Memory
  /-- FAULT (R38), in rising rank. -/
  faults : List FaultRecord
  /-- REFUSED (R38). -/
  refused : Bool
  /-- The host's pending accesses in its program order (20_memory.md R72 a). The model's own (log 8). -/
  host : List HostReq
  /-- What the host's reads returned, oldest first. The model's own (log 9). -/
  hostReads : List HostRead
  /-- How many free values have been used. The model's own (log 4, log 5). -/
  freeCount : Nat
deriving DecidableEq, Repr

/-- DESIGN CHOICE (unsafe, log 2 and log 3): the engine registers at reset, which 10_state.md R39 leaves unspecified and
unobservable. -/
def Engine.reset : Engine :=
  { lcmd := 0, la0 := 0, la1 := 0, la2 := 0, la3 := 0, kb := { w0 := 0, w1 := 0, w2 := 0, w3 := 0 }, l := 0, r := 0 }

/-- The state after reset of a core with parameters `p` (70_reset_and_hazards.md R320; 10_state.md R39). -/
def State.resetWith (p : Params) : State :=
  { params := p
    phase := .idle
    eng := Engine.reset
    cmd := 0
    a0 := 0
    a1 := 0
    a2 := 0
    a3 := 0
    status := { done := false, err := false, errCode := 0, overrun := false }
    result := 0
    spboxBuilt := false
    spbox := { t0 := [], t1 := [], t2 := [], t3 := [] }
    ctxs := List.replicate p.nCtx (Ctx.reset p)
    buf := []
    faults := []
    refused := false
    host := []
    hostReads := []
    freeCount := 0 }

/-- The machine right after reset, with the parameters of `Config.params` (log 1). -/
def State.reset : State := State.resetWith Config.params

end Sys2Proof.Machine
end

