-- ==== Sys2Proof/Machine/Ops.lean ====
section
/-! DEFINITION. The shared operations: byte order, the buffer RAM, the fault marks, context slots, and completion of a
command with or without an error. -/

namespace Sys2Proof.Machine

/-! ### Byte order -/

/-- be32 (00_scope.md R13). -/
def be32 (b0 b1 b2 b3 : Byte) : Word := b0 ++ b1 ++ b2 ++ b3

/-- unbe32 (00_scope.md R13). -/
def unbe32 (w : Word) : List Byte :=
  [w.extractLsb' 24 8, w.extractLsb' 16 8, w.extractLsb' 8 8, w.extractLsb' 0 8]

/-- The halves (L, R) of an 8-byte block (44_cipher_engine.md R222). MemRead of a block gives 8 bytes, so the other
case never arises. -/
def blockHalves : List Byte → Word × Word
  | [b0, b1, b2, b3, b4, b5, b6, b7] => (be32 b0 b1 b2 b3, be32 b4 b5 b6 b7)
  | _ => (0, 0)

/-- The output bytes of final halves (L, R): R first (44_cipher_engine.md R223). -/
def blockBytes (h : Word × Word) : List Byte := unbe32 h.2 ++ unbe32 h.1

/-! ### The buffer RAM -/

/-- The byte at an address, none where W = 0 (10_state.md R35). -/
def Memory.read : Memory → Nat → Option Byte
  | [], _ => none
  | (b, v) :: m, a => if b = a then some v else Memory.read m a

/-- BUF[a] <- v and W[a] <- 1, keeping the canonical form (20_memory.md R61). -/
def Memory.write : Memory → Nat → Byte → Memory
  | [], a, v => [(a, v)]
  | (b, w) :: m, a, v =>
    if a < b then (a, v) :: (b, w) :: m
    else if a = b then (a, v) :: m
    else (b, w) :: Memory.write m a v

/-- The FAULT set with a record added, in its canonical listing (10_state.md R38). -/
def insertRecord : List FaultRecord → FaultRecord → List FaultRecord
  | [], f => [f]
  | g :: fs, f =>
    if f.rank < g.rank then f :: g :: fs
    else if f = g then g :: fs
    else g :: insertRecord fs f

/-- Adds a record to FAULT. -/
def State.addFault (s : State) (f : FaultRecord) : State := { s with faults := insertRecord s.faults f }

/-- One byte read of BUF (20_memory.md R66): an unwritten byte is recorded in FAULT and reads as a fresh free value
(44_cipher_engine.md R230). -/
def readByte (a : Nat) (s : State) : Byte × State :=
  match s.buf.read a with
  | some v => (v, s)
  | none => (Config.freeByte s.freeCount, { s.addFault (.uninitRead a) with freeCount := s.freeCount + 1 })

/-- One byte write of BUF (20_memory.md R61). -/
def writeByte (a : Nat) (v : Byte) (s : State) : State := { s with buf := s.buf.write a v }

/-- MemRead(a, n), ascending (20_memory.md R68). -/
def memRead (a : Nat) : Nat → State → List Byte × State
  | 0, s => ([], s)
  | n + 1, s =>
    let x := readByte a s
    let y := memRead (a + 1) n x.2
    (x.1 :: y.1, y.2)

/-- MemWrite(a, n, v) with n the length of v, ascending (20_memory.md R68). -/
def memWrite (a : Nat) : List Byte → State → State
  | [], s => s
  | v :: vs, s => memWrite (a + 1) vs (writeByte a v s)

/-! ### Context slots -/

/-- ctx[c] (00_scope.md R12). A slot past N_CTX is never selected (60_exceptions.md R283). -/
def State.ctxAt (s : State) (c : Nat) : Ctx := s.ctxs.getD c (Ctx.reset s.params)

/-- ctx[c] <- x. -/
def State.setCtx (s : State) (c : Nat) (x : Ctx) : State := { s with ctxs := s.ctxs.set c x }

/-- sched[k] of a slot. An entry past the storage is never selected (10_state.md R21, log 15). -/
def Ctx.subkey (x : Ctx) (k : Nat) : Subkey := x.sched.getD k Subkey.zero

/-- sched[k] <- sk. -/
def Ctx.setSubkey (x : Ctx) (k : Nat) (sk : Subkey) : Ctx := { x with sched := x.sched.set k sk }

/-! ### The engine's registers -/

/-- L <- h.1, R <- h.2 (10_state.md R28). -/
def State.setHalves (s : State) (h : Word × Word) : State := { s with eng := { s.eng with l := h.1, r := h.2 } }

/-- The halves (L, R). -/
def State.halves (s : State) : Word × Word := (s.eng.l, s.eng.r)

/-- kb <- k (10_state.md R27). -/
def State.setKb (s : State) (k : KeyWords) : State := { s with eng := { s.eng with kb := k } }

/-- Outside a command the latches, kb, L and R are unspecified: every register of the engine is a free value
(93_implementation_defined.md S4, log 4). -/
def Engine.free (n : Nat) : Engine :=
  { lcmd := Config.freeWord n 0
    la0 := Config.freeWord n 1
    la1 := Config.freeWord n 2
    la2 := Config.freeWord n 3
    la3 := Config.freeWord n 4
    kb := { w0 := Config.freeHalf n 0, w1 := Config.freeHalf n 1, w2 := Config.freeHalf n 2, w3 := Config.freeHalf n 3 }
    l := Config.freeWord n 5
    r := Config.freeWord n 6 }

/-! ### Completion, with or without an error -/

/-- The number of an error code (60_exceptions.md R280). -/
def ErrorCode.number : ErrorCode → BitVec 4
  | .illegalCommand => 1
  | .invalidContext => 2
  | .notConstructed => 3
  | .levelUnsupported => 4
  | .invalidKeyLength => 5
  | .invalidBlockLength => 6
  | .invalidOutputCapacity => 7
  | .addressRange => 8

/-- The end of a command: PHASE <- IDLE (so BUSY <- 0) and the STATUS given (44_cipher_engine.md R230); the engine's
registers become unspecified (93_implementation_defined.md S4). -/
def complete (st : Status) (s : State) : State :=
  { s with phase := .idle, status := st, eng := Engine.free s.freeCount, freeCount := s.freeCount + 1 }

/-- Completion without an error: DONE <- 1, ERR <- 0, ERRCODE <- 0, OVERRUN kept (44_cipher_engine.md R230). -/
def completeOk (s : State) : State :=
  complete { s.status with done := true, err := false, errCode := 0 } s

/-- Error entry (60_exceptions.md R286): completion with DONE <- 1, ERR <- 1 and the code, nothing else changed (R284).
There is no return operation: the next issue clears the outcome (R287). -/
def completeError (e : ErrorCode) (s : State) : State :=
  complete { s.status with done := true, err := true, errCode := e.number } s

/-- The first error of a list of checks, each with its code, in the order of 60_exceptions.md R283. -/
def firstError : List (Bool × ErrorCode) → Option ErrorCode
  | [] => none
  | (bad, e) :: cs => if bad then some e else firstError cs

/-- A command: its checks, all before any write (60_exceptions.md R283), then its effect and completion
(44_cipher_engine.md R230). -/
def runCommand (checks : List (Bool × ErrorCode)) (effect : State → State) (s : State) :
    Host.Outcome State Fault Refusal :=
  match firstError checks with
  | some e => .next (completeError e s)
  | none => .next (completeOk (effect s))

end Sys2Proof.Machine
end

