-- ==== Sys2Proof/Machine/Tables.lean ====
section
/-! DEFINITION. The four constant tables (41_spbox.md R140 to R143), read-only (R144). The spec marks their values as
general knowledge of the public ICE reference (log 7). -/

namespace Sys2Proof.Machine

/-- The moduli, by table and row (41_spbox.md R140). -/
def smodTable : Vector (Vector (BitVec 9) 4) 4 :=
  #v[#v[333, 313, 505, 369],
     #v[379, 375, 319, 391],
     #v[361, 445, 451, 397],
     #v[397, 425, 395, 505]]

/-- SMOD[t][row] (41_spbox.md R140). -/
def smod (t row : Fin 4) : BitVec 9 := smodTable[t][row]

/-- The XOR masks, by table and row (41_spbox.md R141). -/
def sxorTable : Vector (Vector (BitVec 8) 4) 4 :=
  #v[#v[0x83, 0x85, 0x9B, 0xCD],
     #v[0xCC, 0xA7, 0xAD, 0x41],
     #v[0x4B, 0x2E, 0xD4, 0x33],
     #v[0xEA, 0xCB, 0x2E, 0x04]]

/-- SXOR[t][row] (41_spbox.md R141). -/
def sxor (t row : Fin 4) : BitVec 8 := sxorTable[t][row]

/-- The permutation positions PBOX[0..32], from entry 0 up (41_spbox.md R142). -/
def pboxTable : List Word :=
  [0x00000001, 0x00000080, 0x00000400, 0x00002000, 0x00080000, 0x00200000, 0x01000000, 0x40000000,
   0x00000008, 0x00000020, 0x00000100, 0x00004000, 0x00010000, 0x00800000, 0x04000000, 0x20000000,
   0x00000004, 0x00000010, 0x00000200, 0x00008000, 0x00020000, 0x00400000, 0x08000000, 0x10000000,
   0x00000002, 0x00000040, 0x00000800, 0x00001000, 0x00040000, 0x00100000, 0x02000000, 0x80000000]

/-- The key rotation (41_spbox.md R143). -/
def keyrotTable : Vector (BitVec 2) 16 :=
  #v[0, 1, 2, 3, 2, 1, 3, 0, 1, 3, 2, 0, 3, 1, 0, 2]

/-- KEYROT[r] (41_spbox.md R143). -/
def keyrot (r : Fin 16) : BitVec 2 := keyrotTable[r]

end Sys2Proof.Machine
end

