-- ==== Sys2Proof/Machine/SpBox.lean ====
section
/-! DEFINITION. The 32-bit permutation, the SP-box table's values, its builder and its read path (41_spbox.md). -/

namespace Sys2Proof.Machine

/-- PERM32 over the input bits from j up, the entries of PBOX from j up given (41_spbox.md R145). -/
def permFrom (x : Word) : Nat → List Word → Word → Word
  | _, [], res => res
  | j, p :: ps, res => permFrom x (j + 1) ps (if x.getLsbD j then res ||| p else res)

/-- PERM32 (41_spbox.md R145): input bit j goes to the output bit PBOX[j] selects. -/
def perm32 (x : Word) : Word := permFrom x 0 pboxTable 0

/-- The column of an entry index: i[8:1] (41_spbox.md R147). -/
def spCol (i : BitVec 10) : Byte := ((i >>> 1) &&& 0xFF).setWidth 8

/-- The row of an entry index: {i[9], i[0]} (41_spbox.md R147). -/
def spRow (i : BitVec 10) : Fin 4 := (((i &&& 1) ||| ((i &&& 0x200) >>> 8)).setWidth 2).toFin

/-- SPBOX_VALUE(t, i) (41_spbox.md R148). -/
def spboxValue (t : Fin 4) (i : BitVec 10) : Word :=
  perm32 ((gfExp7 (spCol i ^^^ sxor t (spRow i)) (smod t (spRow i))).setWidth 32 <<< (24 - 8 * t.val))

/-- The 1024 values of bank t, from entry 0 up (41_spbox.md R151). -/
def builtBank (t : Fin 4) : List Word := (List.range 1024).map fun i => spboxValue t (BitVec.ofNat 10 i)

/-- The whole table as SPBOX_BUILD leaves it (41_spbox.md R151). -/
def SpBox.built : SpBox := { t0 := builtBank 0, t1 := builtBank 1, t2 := builtBank 2, t3 := builtBank 3 }

/-- SPBOX_BUILD: writes every entry, then SPBOX_BUILT <- 1 (41_spbox.md R151). The order of the writes is not observable
(R151, log 18). -/
def spboxBuild (s : State) : State := { s with spbox := SpBox.built, spboxBuilt := true }

/-- The build trigger: only when SPBOX_BUILT = 0 (41_spbox.md R155). -/
def ensureBuilt (s : State) : State := if s.spboxBuilt then s else spboxBuild s

/-- Bank t (41_spbox.md R153). -/
def SpBox.bank (b : SpBox) : Fin 4 → List Word
  | 0 => b.t0
  | 1 => b.t1
  | 2 => b.t2
  | 3 => b.t3

/-- SPBOX[t][i], the stored word (41_spbox.md R154); the unspecified contents of an entry never written are a free
value (log 6). -/
def SpBox.read (b : SpBox) (t : Fin 4) (i : Nat) : Word := (b.bank t)[i]?.getD (Config.freeSpbox t.val i)

/-- The read arbiter's rule that SPBOX is not read until SPBOX_BUILT = 1 (41_spbox.md R153, R157): a command that makes
such reads leaves a record in FAULT (93_implementation_defined.md S3). -/
def noteUnbuilt (reads : Bool) (s : State) : State :=
  if reads && !s.spboxBuilt then s.addFault .spboxUnbuilt else s

end Sys2Proof.Machine
end

