-- ==== Sys2Proof/Machine/Round.lean ====
section
/-! DEFINITION. The Feistel round function (42_round_function.md). -/

namespace Sys2Proof.Machine

/-- tl (42_round_function.md R171). -/
def expandL (p : Word) : Subval :=
  (((p >>> 16) &&& 0x3FF) ||| (((p >>> 14) ||| (p <<< 18)) &&& 0xFFC00)).setWidth 20

/-- tr (42_round_function.md R171). -/
def expandR (p : Word) : Subval := ((p &&& 0x3FF) ||| ((p <<< 2) &&& 0xFFC00)).setWidth 20

/-- al after the XOR with sk[0] (42_round_function.md R171). -/
def saltL (p : Word) (sk : Subkey) : Subval :=
  (sk.s2 &&& (expandL p ^^^ expandR p)) ^^^ expandL p ^^^ sk.s0

/-- ar after the XOR with sk[1] (42_round_function.md R171). -/
def saltR (p : Word) (sk : Subkey) : Subval :=
  (sk.s2 &&& (expandL p ^^^ expandR p)) ^^^ expandR p ^^^ sk.s1

/-- ROUND_F (42_round_function.md R170, R171). -/
def roundF (b : SpBox) (p : Word) (sk : Subkey) : Word :=
  let al := saltL p sk
  let ar := saltR p sk
  b.read 0 (al >>> 10).toNat ||| b.read 1 (al &&& 0x3FF).toNat |||
    b.read 2 (ar >>> 10).toNat ||| b.read 3 (ar &&& 0x3FF).toNat

end Sys2Proof.Machine
end

