-- ==== Sys2Proof/Machine/Cipher.lean ====
section
/-! DEFINITION. The block datapath: sizes, the Feistel loops, and block transforms over the buffer
(44_cipher_engine.md parts 1 and 2). -/

namespace Sys2Proof.Machine

/-- SIZING(lv): size and rounds (44_cipher_engine.md R220). -/
def sizing (lv : Int) : Nat × Nat := if lv < 1 then (1, 8) else (lv.toNat, 16 * lv.toNat)

/-- The Feistel loop over pairs of subkeys, the second half-round using the L just updated (44_cipher_engine.md R225,
R226). -/
def feistel (b : SpBox) : List (Subkey × Subkey) → Word × Word → Word × Word
  | [], h => h
  | k :: ks, h =>
    let l := h.1 ^^^ roundF b h.2 k.1
    let r := h.2 ^^^ roundF b l k.2
    feistel b ks (l, r)

/-- The pairs (sched[i], sched[i+1]), i = 0, 2, ..., rounds - 2 (44_cipher_engine.md R225). -/
def Ctx.encPairs (x : Ctx) : List (Subkey × Subkey) :=
  (List.range (x.rounds.toNat / 2)).map fun j => (x.subkey (2 * j), x.subkey (2 * j + 1))

/-- The pairs (sched[i], sched[i-1]), i = rounds - 1, rounds - 3, ..., 1 (44_cipher_engine.md R226). -/
def Ctx.decPairs (x : Ctx) : List (Subkey × Subkey) :=
  (List.range (x.rounds.toNat / 2)).map fun j =>
    (x.subkey (x.rounds.toNat - 1 - 2 * j), x.subkey (x.rounds.toNat - 1 - 2 * j - 1))

/-- A block operation with the given subkey pairs: loads L and R, runs the loop, gives the output bytes
(44_cipher_engine.md R222, R223). -/
def runBlock (pairs : List (Subkey × Subkey)) (B : List Byte) (s : State) : List Byte × State :=
  let s1 := noteUnbuilt (!pairs.isEmpty) (s.setHalves (blockHalves B))
  let s2 := s1.setHalves (feistel s1.spbox pairs s1.halves)
  (blockBytes s2.halves, s2)

/-- ENC_BLOCK(c, B) (44_cipher_engine.md R225). -/
def encBlock (c : Nat) (B : List Byte) (s : State) : List Byte × State := runBlock (s.ctxAt c).encPairs B s

/-- DEC_BLOCK(c, B) (44_cipher_engine.md R226). -/
def decBlock (c : Nat) (B : List Byte) (s : State) : List Byte × State := runBlock (s.ctxAt c).decPairs B s

/-- B <- MemRead(src, 8); MemWrite(dst, 8, f(B)): the whole block is read before any byte is written (20_memory.md R69;
44_cipher_engine.md R234, R235). -/
def transformBlock (f : List Byte → State → List Byte × State) (src dst : Nat) (s : State) : State :=
  let x := memRead src 8 s
  let y := f x.1 x.2
  memWrite dst y.1 y.2

/-- The block loop of DECRYPTBUF, in ascending order (44_cipher_engine.md R236; 20_memory.md R69). -/
def decryptBlocks (c src dst : Nat) : Nat → State → State
  | 0, s => s
  | n + 1, s => decryptBlocks c (src + 8) (dst + 8) n (transformBlock (decBlock c) src dst s)

/-- The tail of DECRYPTBUF: bytes copied one at a time, ascending, not decrypted (44_cipher_engine.md R236). -/
def copyTail (src dst : Nat) : Nat → State → State
  | 0, s => s
  | n + 1, s =>
    let x := readByte src s
    copyTail (src + 1) (dst + 1) n (writeByte dst x.1 x.2)

end Sys2Proof.Machine
end

