-- ==== Sys2Proof/Machine/KeySchedule.lean ====
section
/-! DEFINITION. The key-schedule engine (43_key_schedule.md). -/

namespace Sys2Proof.Machine

/-- kb[w]; indices are mod 4 (43_key_schedule.md R193). -/
def KeyWords.get (k : KeyWords) (w : BitVec 2) : Half :=
  if w = 0 then k.w0 else if w = 1 then k.w1 else if w = 2 then k.w2 else k.w3

/-- kb[w] <- v. -/
def KeyWords.set (k : KeyWords) (w : BitVec 2) (v : Half) : KeyWords :=
  if w = 0 then { k with w0 := v } else if w = 1 then { k with w1 := v }
  else if w = 2 then { k with w2 := v } else { k with w3 := v }

/-- sched[k][j] of a triple, j < 3. -/
def Subkey.get (sk : Subkey) (j : Nat) : Subval := if j = 0 then sk.s0 else if j = 1 then sk.s1 else sk.s2

/-- sched[k][j] <- v, j < 3. -/
def Subkey.set (sk : Subkey) (j : Nat) (v : Subval) : Subkey :=
  if j = 0 then { sk with s0 := v } else if j = 1 then { sk with s1 := v } else { sk with s2 := v }

/-- LOAD_KB (43_key_schedule.md R191): kb[3 - i] <- the bytes C[2i] (high) and C[2i+1] (low). A chunk has 8 bytes, so the
other case never arises. -/
def loadKb : List Byte → KeyWords
  | [c0, c1, c2, c3, c4, c5, c6, c7] => { w3 := c0 ++ c1, w2 := c2 ++ c3, w1 := c4 ++ c5, w0 := c6 ++ c7 }
  | _ => { w0 := 0, w1 := 0, w2 := 0, w3 := 0 }

/-- The bit BIT_STEP takes: bit 0 (43_key_schedule.md R192). -/
def takenBit (w : Half) : BitVec 1 := w.extractLsb' 0 1

/-- The word after BIT_STEP: shifted right, the complement of the taken bit in bit 15 (43_key_schedule.md R192). -/
def rotatedWord (w : Half) : Half := (w >>> 1) ||| ((takenBit w ^^^ 1).setWidth 16 <<< 15)

/-- BIT_STEP on working word w and the slot being filled (43_key_schedule.md R192). -/
def bitStep (w : BitVec 2) (x : KeyWords × Subval) : KeyWords × Subval :=
  (x.1.set w (rotatedWord (x.1.get w)), (x.2 <<< 1) ||| (takenBit (x.1.get w)).setWidth 20)

/-- The four bit steps k = 0..3 of one iteration, on the words (kr + k) mod 4 (43_key_schedule.md R193). -/
def iterationSteps (kr : BitVec 2) (x : KeyWords × Subval) : KeyWords × Subval :=
  bitStep (kr + 3) (bitStep (kr + 2) (bitStep (kr + 1) (bitStep kr x)))

/-- Iteration `it` of one round: it fills slot it mod 3 (43_key_schedule.md R193). -/
def roundIteration (kr : BitVec 2) (x : KeyWords × Subkey) (it : Nat) : KeyWords × Subkey :=
  let y := iterationSteps kr (x.1, x.2.get (it % 3))
  (y.1, x.2.set (it % 3) y.2)

/-- One round of SCHEDULE_BUILD: the three slots from 0 by 15 iterations (43_key_schedule.md R193, R196). -/
def deriveRound (kr : BitVec 2) (kb : KeyWords) : KeyWords × Subkey :=
  (List.range 15).foldl (roundIteration kr) (kb, Subkey.zero)

/-- Round r of SCHEDULE_BUILD(c, n, ro): reads and writes kb, writes ctx[c].sched[n + r] (43_key_schedule.md R193). -/
def scheduleRound (c n : Nat) (ro : Fin 16) (s : State) (r : Nat) : State :=
  let y := deriveRound (keyrot (ro + Fin.ofNat 16 r)) s.eng.kb
  (s.setKb y.1).setCtx c ((s.ctxAt c).setSubkey (n + r) y.2)

/-- SCHEDULE_BUILD(c, n, ro), ro = 0 or 8 (43_key_schedule.md R193). -/
def scheduleBuild (c n : Nat) (ro : Fin 16) (s : State) : State :=
  (List.range 8).foldl (scheduleRound c n ro) s

/-- SET_THIN(c, K) (43_key_schedule.md R194). -/
def setThin (c : Nat) (key : List Byte) (s : State) : State :=
  scheduleBuild c 0 0 (s.setKb (loadKb (key.take 8)))

/-- Chunk i of SET_STD(c, K): load, the pass at 8i, the mirrored pass at rounds - 8 - 8i (43_key_schedule.md R195). -/
def stdChunk (c : Nat) (key : List Byte) (s : State) (i : Nat) : State :=
  scheduleBuild c ((s.ctxAt c).rounds.toNat - 8 - 8 * i) 8
    (scheduleBuild c (8 * i) 0 (s.setKb (loadKb ((key.drop (8 * i)).take 8))))

/-- SET_STD(c, K) (43_key_schedule.md R195). -/
def setStd (c : Nat) (key : List Byte) (s : State) : State :=
  (List.range (s.ctxAt c).size.toNat).foldl (stdChunk c key) s

/-- The derivation SETKEY runs: thin for 8 rounds, else standard (44_cipher_engine.md R233). -/
def deriveSchedule (c : Nat) (key : List Byte) (s : State) : State :=
  if (s.ctxAt c).rounds = 8 then setThin c key s else setStd c key s

end Sys2Proof.Machine
end

