-- ==== Sys2Proof/Machine/Operands.lean ====
section
/-! DEFINITION. Operands of commands, read from the latches (30_encoding.md R97, R98), and the checks on them
(60_exceptions.md R280, R283). -/

namespace Sys2Proof.Machine

/-- The level of CONSTRUCT: sint32(LA0) (30_encoding.md R98). -/
abbrev State.opLevel (s : State) : Int := s.eng.la0.toInt

/-- The address in LA0: key address of SETKEY, source address of the block commands (30_encoding.md R97). -/
abbrev State.opSrc (s : State) : Nat := s.eng.la0.toNat

/-- The length in LA1: key length or source length (30_encoding.md R97). -/
abbrev State.opLen (s : State) : Nat := s.eng.la1.toNat

/-- The destination address in LA2 (30_encoding.md R97). -/
abbrev State.opDst (s : State) : Nat := s.eng.la2.toNat

/-- The destination length or capacity in LA3 (30_encoding.md R97). -/
abbrev State.opCap (s : State) : Nat := s.eng.la3.toNat

/-- INVALID_CONTEXT: CTX ≥ N_CTX (60_exceptions.md R280). -/
def checkContext (c : Nat) (s : State) : Bool × ErrorCode := (decide (s.params.nCtx ≤ c), .invalidContext)

/-- NOT_CONSTRUCTED: ctx[CTX].valid = 0 (60_exceptions.md R280). -/
def checkConstructed (c : Nat) (s : State) : Bool × ErrorCode := (!(s.ctxAt c).valid, .notConstructed)

/-- LEVEL_UNSUPPORTED: the level is at least 1 and above MAX_LEVEL (60_exceptions.md R280). -/
def checkLevel (s : State) : Bool × ErrorCode :=
  (decide (1 ≤ s.opLevel ∧ (s.params.maxLevel : Int) < s.opLevel), .levelUnsupported)

/-- INVALID_KEY_LENGTH: A1 ≠ 8·size (60_exceptions.md R280). -/
def checkKeyLength (c : Nat) (s : State) : Bool × ErrorCode :=
  (decide (s.opLen ≠ 8 * (s.ctxAt c).size.toNat), .invalidKeyLength)

/-- INVALID_BLOCK_LENGTH: A1 ≠ 8 or A3 ≠ 8 (60_exceptions.md R280). -/
def checkBlockLength (s : State) : Bool × ErrorCode := (decide (s.opLen ≠ 8 ∨ s.opCap ≠ 8), .invalidBlockLength)

/-- INVALID_OUTPUT_CAPACITY: A3 < A1 (60_exceptions.md R280). -/
def checkCapacity (s : State) : Bool × ErrorCode := (decide (s.opCap < s.opLen), .invalidOutputCapacity)

/-- ADDRESS_RANGE: the n bytes at `a` end past BUF_BYTES (60_exceptions.md R280; exact sums, 30_encoding.md R98). With n = 0 it still compares `a` with BUF_BYTES (DESIGN CHOICE, log 25). -/
def checkRange (a n : Nat) (s : State) : Bool × ErrorCode := (decide (s.params.bufBytes < a + n), .addressRange)

end Sys2Proof.Machine
end

