-- ==== Sys2Proof/Machine/Block.lean ====
section
/-! DEFINITION. The commands that read or write the buffer RAM: SETKEY, ENCRYPT, DECRYPT, DECRYPTBUF
(44_cipher_engine.md R233 to R236). -/

namespace Sys2Proof.Machine

/-- SETKEY (44_cipher_engine.md R233): the whole key is read, then the schedule derived. -/
def execSetkey (c : Nat) (s : State) : Host.Outcome State Fault Refusal :=
  runCommand [checkContext c s, checkConstructed c s, checkKeyLength c s, checkRange s.opSrc s.opLen s]
    (fun s =>
      let k := memRead s.opSrc s.opLen s
      deriveSchedule c k.1 k.2) s

/-- ENCRYPT (44_cipher_engine.md R234). The source range is checked before the destination range (60_exceptions.md
R283). -/
def execEncrypt (c : Nat) (s : State) : Host.Outcome State Fault Refusal :=
  runCommand
    [checkContext c s, checkConstructed c s, checkBlockLength s, checkRange s.opSrc 8 s, checkRange s.opDst 8 s]
    (fun s => transformBlock (encBlock c) s.opSrc s.opDst s) s

/-- DECRYPT (44_cipher_engine.md R235). -/
def execDecrypt (c : Nat) (s : State) : Host.Outcome State Fault Refusal :=
  runCommand
    [checkContext c s, checkConstructed c s, checkBlockLength s, checkRange s.opSrc 8 s, checkRange s.opDst 8 s]
    (fun s => transformBlock (decBlock c) s.opSrc s.opDst s) s

/-- DECRYPTBUF (44_cipher_engine.md R236): n div 8 blocks, then the n mod 8 tail bytes at the corresponding offset
(90_conflicts.md C2). DESIGN CHOICE (unsafe, log 25): with n = 0 and a source or destination address above BUF_BYTES it
reports ADDRESS_RANGE, as R236's pseudocode compares. -/
def execDecryptbuf (c : Nat) (s : State) : Host.Outcome State Fault Refusal :=
  runCommand
    [checkContext c s, checkConstructed c s, checkCapacity s, checkRange s.opSrc s.opLen s,
      checkRange s.opDst s.opLen s]
    (fun s =>
      let nb := s.opLen / 8
      copyTail (s.opSrc + 8 * nb) (s.opDst + 8 * nb) (s.opLen % 8) (decryptBlocks c s.opSrc s.opDst nb s)) s

end Sys2Proof.Machine
end

