-- ==== Sys2Proof/Machine/Context.lean ====
section
/-! DEFINITION. The commands on a context slot that touch no buffer: CONSTRUCT, CLEARKEY, KEYSIZE, BLOCKSIZE
(44_cipher_engine.md R232, R237, R238, R239). -/

namespace Sys2Proof.Machine

/-- The slot CONSTRUCT leaves for a level (44_cipher_engine.md R232). -/
def constructedCtx (p : Params) (lv : Int) : Ctx :=
  { valid := true
    size := BitVec.ofNat 16 (sizing lv).1
    rounds := BitVec.ofNat 21 (sizing lv).2
    sched := zeroSched p }

/-- CONSTRUCT (44_cipher_engine.md R232): the table is built, if it is not yet, before the slot becomes valid. -/
def execConstruct (c : Nat) (s : State) : Host.Outcome State Fault Refusal :=
  runCommand [checkContext c s, checkLevel s]
    (fun s => (ensureBuilt s).setCtx c (constructedCtx s.params s.opLevel)) s

/-- CLEARKEY (44_cipher_engine.md R237): the schedule becomes zero; size, rounds and valid are kept. -/
def execClearkey (c : Nat) (s : State) : Host.Outcome State Fault Refusal :=
  runCommand [checkContext c s, checkConstructed c s]
    (fun s => s.setCtx c { s.ctxAt c with sched := zeroSched s.params }) s

/-- KEYSIZE (44_cipher_engine.md R238): RESULT <- 8·size. -/
def execKeysize (c : Nat) (s : State) : Host.Outcome State Fault Refusal :=
  runCommand [checkContext c s, checkConstructed c s]
    (fun s => { s with result := BitVec.ofNat 32 (8 * (s.ctxAt c).size.toNat) }) s

/-- BLOCKSIZE (44_cipher_engine.md R239): RESULT <- 8; CTX is ignored and nothing is checked. -/
def execBlocksize (_c : Nat) (s : State) : Host.Outcome State Fault Refusal :=
  runCommand [] (fun s => { s with result := 8 }) s

end Sys2Proof.Machine
end

