-- ==== Sys2Proof/Machine/Reserved.lean ====
section
/-! DEFINITION. Reserved operations and undecodable command words: completion with ILLEGAL_COMMAND
(44_cipher_engine.md R231, R240). -/

namespace Sys2Proof.Machine

/-- The outcome of an illegal command word: ILLEGAL_COMMAND and no other change, with no CTX check
(44_cipher_engine.md R240; 60_exceptions.md R284). -/
def illegalCommand (s : State) : Host.Outcome State Fault Refusal := .next (completeError .illegalCommand s)

/-- OP 0x0, reserved (44_cipher_engine.md R240). -/
def execReserved0 (_c : Nat) (s : State) : Host.Outcome State Fault Refusal := illegalCommand s

/-- OP 0x9, reserved (44_cipher_engine.md R240). -/
def execReserved9 (_c : Nat) (s : State) : Host.Outcome State Fault Refusal := illegalCommand s

/-- OP 0xA, reserved (44_cipher_engine.md R240). -/
def execReservedA (_c : Nat) (s : State) : Host.Outcome State Fault Refusal := illegalCommand s

/-- OP 0xB, reserved (44_cipher_engine.md R240). -/
def execReservedB (_c : Nat) (s : State) : Host.Outcome State Fault Refusal := illegalCommand s

/-- OP 0xC, reserved (44_cipher_engine.md R240). -/
def execReservedC (_c : Nat) (s : State) : Host.Outcome State Fault Refusal := illegalCommand s

/-- OP 0xD, reserved (44_cipher_engine.md R240). -/
def execReservedD (_c : Nat) (s : State) : Host.Outcome State Fault Refusal := illegalCommand s

/-- OP 0xE, reserved (44_cipher_engine.md R240). -/
def execReservedE (_c : Nat) (s : State) : Host.Outcome State Fault Refusal := illegalCommand s

/-- OP 0xF, reserved (44_cipher_engine.md R240). -/
def execReservedF (_c : Nat) (s : State) : Host.Outcome State Fault Refusal := illegalCommand s

end Sys2Proof.Machine
end

