-- ==== Sys2Proof/Machine/Dispatch.lean ====
section
/-! DEFINITION. One arm per command (44_cipher_engine.md R231): the command's rule and its completion (R230). -/

namespace Sys2Proof.Machine

def exec (i : Instr) (s : State) : Host.Outcome State Fault Refusal :=
  match i with
  | .construct c => Sys2Proof.Machine.execConstruct c s
  | .setkey c => Sys2Proof.Machine.execSetkey c s
  | .encrypt c => Sys2Proof.Machine.execEncrypt c s
  | .decrypt c => Sys2Proof.Machine.execDecrypt c s
  | .decryptbuf c => Sys2Proof.Machine.execDecryptbuf c s
  | .clearkey c => Sys2Proof.Machine.execClearkey c s
  | .keysize c => Sys2Proof.Machine.execKeysize c s
  | .blocksize c => Sys2Proof.Machine.execBlocksize c s
  | .reserved0 c => Sys2Proof.Machine.execReserved0 c s
  | .reserved9 c => Sys2Proof.Machine.execReserved9 c s
  | .reservedA c => Sys2Proof.Machine.execReservedA c s
  | .reservedB c => Sys2Proof.Machine.execReservedB c s
  | .reservedC c => Sys2Proof.Machine.execReservedC c s
  | .reservedD c => Sys2Proof.Machine.execReservedD c s
  | .reservedE c => Sys2Proof.Machine.execReservedE c s
  | .reservedF c => Sys2Proof.Machine.execReservedF c s

end Sys2Proof.Machine
end

