-- ==== Sys2Proof/Machine/Flags.lean ====
section
/-! DEFINITION. STATUS as a word and its transitions (10_state.md R32), and the two constant registers (R31). -/

namespace Sys2Proof.Machine

/-- STATUS.BUSY is PHASE = BUSY (10_state.md R37). -/
def State.busy (s : State) : Bool := decide (s.phase = .busy)

/-- STATUS as the host reads it (10_state.md R32): bits 3 and 31:10 read 0. -/
def State.statusWord (s : State) : Word :=
  (0 : BitVec 22) ++ BitVec.ofBool s.status.overrun ++ BitVec.ofBool s.spboxBuilt ++ s.status.errCode ++
    (0 : BitVec 1) ++ BitVec.ofBool s.status.err ++ BitVec.ofBool s.status.done ++ BitVec.ofBool s.busy

/-- CAP: N_CTX in [7:0], MAX_LEVEL in [23:8], 0 in [31:24] (10_state.md R31). -/
def State.capWord (s : State) : Word :=
  (0 : BitVec 8) ++ BitVec.ofNat 16 s.params.maxLevel ++ BitVec.ofNat 8 s.params.nCtx

/-- BUFSZ: BUF_BYTES, with 2^32 read as 0 (10_state.md R31). -/
def State.bufszWord (s : State) : Word := BitVec.ofNat 32 s.params.bufBytes

/-- What issue does to STATUS besides BUSY: DONE, ERR and ERRCODE <- 0 (44_cipher_engine.md R228). -/
def Status.issued (st : Status) : Status := { st with done := false, err := false, errCode := 0 }

/-- A dropped CMD write: OVERRUN <- 1 (44_cipher_engine.md R229). -/
def Status.overrunSet (st : Status) : Status := { st with overrun := true }

/-- A host write to STATUS: bit 9 = 1 clears OVERRUN, all other bits are ignored (10_state.md R32; 30_encoding.md R93). -/
def Status.hostWrite (st : Status) (v : Word) : Status := if v.getLsbD 9 then { st with overrun := false } else st

end Sys2Proof.Machine
end

