-- ==== Sys2Proof/Machine/Port.lean ====
section
/-! DEFINITION. The host's two ports (30_encoding.md R90 to R93; 20_memory.md R61 to R67), issue of a command
(44_cipher_engine.md R228, R229), the reset input (70_reset_and_hazards.md R320), and which agent moves next. -/

namespace Sys2Proof.Machine

/-- The registers of the register map (30_encoding.md R90). -/
inductive RegName where
  | cmd
  | a0
  | a1
  | a2
  | a3
  | status
  | result
  | cap
  | bufsz
  | reserved
deriving DecidableEq, Repr

/-- Index to register (30_encoding.md R90); 9..15 are reserved (R92). -/
def regName (i : Fin 16) : RegName :=
  match i.val with
  | 0 => .cmd
  | 1 => .a0
  | 2 => .a1
  | 3 => .a2
  | 4 => .a3
  | 5 => .status
  | 6 => .result
  | 7 => .cap
  | 8 => .bufsz
  | _ => .reserved

/-- The value RegRead(i) returns (30_encoding.md R90 to R93, R105); a reserved index reads 0 (R92). -/
def State.regValue (s : State) (i : Fin 16) : Word :=
  match regName i with
  | .cmd => s.cmd
  | .a0 => s.a0
  | .a1 => s.a1
  | .a2 => s.a2
  | .a3 => s.a3
  | .status => s.statusWord
  | .result => s.result
  | .cap => s.capWord
  | .bufsz => s.bufszWord
  | .reserved => 0

/-- ISSUE(v) (44_cipher_engine.md R228): the word and the four operands are latched (10_state.md R36). -/
def issue (v : Word) (s : State) : State :=
  { s with
    cmd := v
    eng := { s.eng with lcmd := v, la0 := s.a0, la1 := s.a1, la2 := s.a2, la3 := s.a3 }
    phase := .busy
    status := s.status.issued }

/-- A CMD write: issues when IDLE (44_cipher_engine.md R228), is dropped with OVERRUN when BUSY (R229). -/
def writeCmd (v : Word) (s : State) : State :=
  match s.phase with
  | .idle => issue v s
  | .busy => { s with status := s.status.overrunSet }

/-- RegWrite(i, v) (30_encoding.md R90 to R93). -/
def regWrite (i : Fin 16) (v : Word) (s : State) : State :=
  match regName i with
  | .cmd => writeCmd v s
  | .a0 => { s with a0 := v }
  | .a1 => { s with a1 := v }
  | .a2 => { s with a2 := v }
  | .a3 => { s with a3 := v }
  | .status => { s with status := s.status.hostWrite v }
  | .result => s
  | .cap => s
  | .bufsz => s
  | .reserved => s

/-- The host receives a value. -/
def logRead (r : HostRead) (s : State) : State := { s with hostReads := s.hostReads ++ [r] }

/-- RegRead(i) (30_encoding.md R91). -/
def regRead (i : Fin 16) (s : State) : State := logRead (.reg i (s.regValue i)) s

/-- An access past the RAM sets REFUSED and does nothing else (20_memory.md R67). -/
def refuse (s : State) : State := { s with refused := true }

/-- BufWrite(a, v) (20_memory.md R61, R67). -/
def bufWrite (a : Nat) (v : Byte) (s : State) : State :=
  if a < s.params.bufBytes then writeByte a v s else refuse s

/-- BufRead(a) (20_memory.md R61, R66, R67). -/
def bufRead (a : Nat) (s : State) : State :=
  if a < s.params.bufBytes then logRead (.buf a (readByte a s).1) (readByte a s).2 else refuse s

/-- The reset input (70_reset_and_hazards.md R320, R321): every piece of the core's state at its reset value. What is not
the core's stays: the parameters, the host's pending accesses and received values, and the count of free values
(log 10). -/
def hostReset (s : State) : State :=
  { State.resetWith s.params with host := s.host, hostReads := s.hostReads, freeCount := s.freeCount }

/-- One host access. -/
def hostAccess (op : HostOp) (s : State) : State :=
  match op with
  | .regWrite i v => regWrite i v s
  | .regRead i => regRead i s
  | .bufWrite a v => bufWrite a v s
  | .bufRead a => bufRead a s
  | .reset => hostReset s

/-- A buffer access is held while BUSY (20_memory.md R64); register accesses and reset never are (30_encoding.md R91;
70_reset_and_hazards.md R321). -/
def HostOp.held : HostOp → Bool
  | .bufWrite _ _ => true
  | .bufRead _ => true
  | .regWrite _ _ => false
  | .regRead _ => false
  | .reset => false

/-- The host access that moves next, if the host moves next, with the accesses after it. When IDLE it is the first pending
one. When BUSY it is the first pending one only if it is early and not held: the host's program order (20_memory.md R72 a)
makes every later access wait behind it (log 21). -/
def nextHostMove (s : State) : Option (HostOp × List HostReq) :=
  match s.host with
  | [] => none
  | q :: rest =>
    match s.phase with
    | .idle => some (q.op, rest)
    | .busy => if q.early && !q.op.held then some (q.op, rest) else none

/-- What the command engine performs: the latched command word, decoded (44_cipher_engine.md R231). -/
def fetch (s : State) : Decoded := decode s.eng.lcmd

/-- The pending accesses with the first one put after PERFORM. -/
def deferHost : List HostReq → List HostReq
  | [] => []
  | q :: rest => { q with early := false } :: rest

/-- The state in which the command word with bits `w` has just been issued and the engine moves next (log 11). -/
def placeCommand (s : State) (nbits w : Nat) : State :=
  { issue (BitVec.ofNat 32 (w % 2 ^ nbits)) s with host := deferHost s.host }

end Sys2Proof.Machine
end

