-- ==== Sys2Proof/Machine/Step.lean ====
section
/-! DEFINITION. One step of the core and its host (44_cipher_engine.md R230; 20_memory.md R72). -/

namespace Sys2Proof.Machine

/-- PERFORM (44_cipher_engine.md R230, R231): the latched command's rule and its completion, in one step. A word with
RSV ≠ 0 completes with ILLEGAL_COMMAND. -/
def perform (s : State) : Host.Outcome State Fault Refusal :=
  match fetch s with
  | .instr i => exec i s
  | .rejected .reservedBits => illegalCommand s

/-- One step: the host's next access if the host moves next; else PERFORM when BUSY; else nothing, since an idle core does
nothing until the host issues a command (60_exceptions.md R296). -/
def step (s : State) : Host.Outcome State Fault Refusal :=
  match nextHostMove s with
  | some (op, rest) => .next (hostAccess op { s with host := rest })
  | none =>
    match s.phase with
    | .idle => .next s
    | .busy => perform s

/-- The state in which that command word has just been issued (44_cipher_engine.md R228), so that the next step performs
it (log 11). -/
def State.withFetchWord (s : State) (nbits w : Nat) : State := placeCommand s nbits w

end Sys2Proof.Machine
end

