-- ==== Sys2Proof/Safety.lean ====
section
/-! DEFINITION. The invariant of the machine, what a successful final state is, and the terms the statements use. -/

namespace Sys2Proof.Machine

/-- A slot of a core with parameters `p` (10_state.md R21, R22; 93_implementation_defined.md S5). -/
structure Ctx.Inv (p : Params) (x : Ctx) : Prop where
  /-- The storage has 16·MAX_LEVEL entries (R21). -/
  storage : x.sched.length = 16 * p.maxLevel
  /-- A valid slot is thin or holds a level 1..MAX_LEVEL (R21, R22). -/
  sized : x.valid = true → (x.size.toNat = 1 ∧ x.rounds.toNat = 8) ∨
    (1 ≤ x.size.toNat ∧ x.size.toNat ≤ p.maxLevel ∧ x.rounds.toNat = 16 * x.size.toNat)
  /-- A slot not constructed is as reset left it (R21). -/
  unused : x.valid = false → x = Ctx.reset p
  /-- Entries k ≥ rounds are 0 (S5). -/
  beyond : ∀ k, x.rounds.toNat ≤ k → x.subkey k = Subkey.zero

/-- What holds of every state of the machine. -/
structure State.Inv (s : State) : Prop where
  /-- The parameters are legal (00_scope.md R7). -/
  legal : s.params.Legal
  /-- There are N_CTX slots (10_state.md R21). -/
  slots : s.ctxs.length = s.params.nCtx
  /-- Every slot meets its invariant (R22). -/
  slot : ∀ x ∈ s.ctxs, x.Inv s.params
  /-- A valid slot implies SPBOX_BUILT = 1 (R26). -/
  built : ∀ x ∈ s.ctxs, x.valid = true → s.spboxBuilt = true
  /-- SPBOX_BUILT = 1 implies the whole table is as SPBOX_BUILD left it (41_spbox.md R157, R159). -/
  table : s.spboxBuilt = true → s.spbox = SpBox.built
  /-- ERR = 1 exactly when ERRCODE is one of 1..8, and ERRCODE = 0 otherwise (60_exceptions.md R280). -/
  code : if s.status.err then 1 ≤ s.status.errCode.toNat ∧ s.status.errCode.toNat ≤ 8 else s.status.errCode = 0
  /-- ERR is reported with DONE (44_cipher_engine.md R230). -/
  errDone : s.status.err = true → s.status.done = true
  /-- While BUSY, DONE = 0 (44_cipher_engine.md R228; 70_reset_and_hazards.md R328). -/
  busyNotDone : s.phase = .busy → s.status.done = false
  /-- The buffer RAM is in its canonical form. -/
  bufWf : s.buf.wf
  /-- Every written byte is inside the RAM (20_memory.md R60, R68). -/
  bufRange : ∀ x ∈ s.buf, x.1 < s.params.bufBytes
  /-- FAULT is in its canonical listing (10_state.md R38). -/
  faultsWf : s.faults.Pairwise fun f g => f.rank < g.rank
  /-- No SP-box read came before the build (41_spbox.md R157). -/
  noTorn : FaultRecord.spboxUnbuilt ∉ s.faults

/-- A state that can be a successful final state: FAULT empty and REFUSED clear (10_state.md R38). -/
abbrev State.Clean (s : State) : Prop := s.faults = [] ∧ s.refused = false

/-- The command that ran from `s` has completed in `t` with error code `code`, 0 for success (44_cipher_engine.md R230;
60_exceptions.md R280, R286): PHASE = IDLE, DONE = 1, ERR and ERRCODE the outcome, OVERRUN as before. -/
structure Completes (s t : State) (code : BitVec 4) : Prop where
  idle : t.phase = .idle
  done : t.status.done = true
  err : t.status.err = decide (code ≠ 0)
  errCode : t.status.errCode = code
  overrun : t.status.overrun = s.status.overrun

/-- Nothing but the outcome in STATUS and PHASE differs (60_exceptions.md R284). The engine's registers are unspecified
outside a command (93_implementation_defined.md S4) and `freeCount` is the model's own. -/
def OnlyOutcome (s t : State) : Prop :=
  t = { s with phase := t.phase, status := t.status, eng := t.eng, freeCount := t.freeCount }

/-- The bit BIT_STEP takes at step n since LOAD_KB, by the closed form of 43_key_schedule.md R200. -/
def closedBit (w : Half) (n : Nat) : Bool := w.getLsbD (n % 16) ^^ decide (n / 16 % 2 = 1)

/-- Entry `sk` is what round r of a pass with rotation offset ro gives when `first` steps were taken on every word before
the pass: the bit that iteration it = 3m + j takes with k is bit 19 - (4m + k) of slot j (43_key_schedule.md R193, R196),
and it is step `first + 15 r + it` on word KEYROT[ro + r] + k mod 4 (R200). -/
def IsRoundOf (kb : KeyWords) (ro : Fin 16) (first r : Nat) (sk : Subkey) : Prop :=
  ∀ j m k : Nat, j < 3 → m < 5 → k < 4 →
    (sk.get j).getLsbD (19 - (4 * m + k)) =
      closedBit (kb.get (keyrot (ro + Fin.ofNat 16 r) + BitVec.ofNat 2 k)) (first + 15 * r + (3 * m + j))

/-- Two states that differ at most in the values of schedule entries. -/
def SameButSchedules (s t : State) : Prop :=
  t = { s with ctxs := t.ctxs } ∧
    t.ctxs.map (fun x => (x.valid, x.size, x.rounds, x.sched.length)) =
      s.ctxs.map (fun x => (x.valid, x.size, x.rounds, x.sched.length))

end Sys2Proof.Machine
end

