-- ==== Sys2Proof/Certificates/Slice0/Obligations.lean ====
section
/-! DEFINITION. The statements for the provers. -/

open Sys2Proof Sys2Proof.Machine

/-! ### Encoding -/

/-- No bit of an encoding is dropped: every well-formed command decodes from its own word (30_encoding.md R94, R95). -/
def Obligations.DecodeOfEncode : Prop :=
  ∀ i : Instr, i.WellFormed → decode (encode i) = .instr i

/-- Each word has one meaning: what decodes is well-formed and encodes to that word (30_encoding.md R94, R100). -/
def Obligations.EncodeOfDecode : Prop :=
  ∀ (w : Word) (i : Instr), decode w = .instr i → i.WellFormed ∧ encode i = w

/-- The opcode map of 30_encoding.md R95, and its decoder by mask with CTX free. -/
def Obligations.MaskSelectsCommand : Prop :=
  (∀ (w : Word) (i : Instr), decode w = .instr i ↔
    (w &&& 0xFFFFFF0F#32 = i.op.setWidth 32 ∧ i.ctx = ((w >>> 4) &&& 0xF#32).toNat)) ∧
  (∀ c, [Instr.reserved0 c, .construct c, .setkey c, .encrypt c, .decrypt c, .decryptbuf c, .clearkey c, .keysize c,
      .blocksize c, .reserved9 c, .reservedA c, .reservedB c, .reservedC c, .reservedD c, .reservedE c,
      .reservedF c].map Instr.op = (List.range 16).map (BitVec.ofNat 4))

/-- Words written out from the encoding table (30_encoding.md R94, R95). -/
def Obligations.WrittenOutWordsDecode : Prop :=
  decode 0b00000000000000000000000000100001#32 = .instr (.construct 2) ∧
  decode 0b00000000000000000000000000000010#32 = .instr (.setkey 0) ∧
  decode 0b00000000000000000000000000010101#32 = .instr (.decryptbuf 1) ∧
  decode 0b00000000000000000000000011111000#32 = .instr (.blocksize 15) ∧
  decode 0b00000000000000000000000000111111#32 = .instr (.reservedF 3) ∧
  decode 0b00000000000000000000000100001000#32 = .rejected .reservedBits

/-- 30_encoding.md R96: a word with RSV ≠ 0, or OP 0x0 or 0x9..0xF, is still issued, then completes with ILLEGAL_COMMAND
and has no other effect. -/
def Obligations.IllegalWordIsIssuedThenFails : Prop :=
  ∀ (w : Word), (rsvField w ≠ 0 ∨ opField w = 0 ∨ 9 ≤ (opField w).toNat) →
    (∀ s : State, s.phase = .idle → (regWrite 0 w s).phase = .busy ∧ (regWrite 0 w s).eng.lcmd = w) ∧
    (∀ s : State, s.phase = .busy → s.eng.lcmd = w → nextHostMove s = none →
      ∃ t, step s = .next t ∧ Completes s t 1 ∧ OnlyOutcome s t)

/-! ### The step, the host's ports and the command's life -/

/-- A step runs the decoded command: while BUSY, when the host does not move first, the step is `exec` of what LCMD
decodes to (44_cipher_engine.md R230, R231). Which agent moves first is plain data, the model's choice (log 8). -/
def Obligations.StepRunsDecodedCommand : Prop :=
  ∀ (s : State) (i : Instr), s.phase = .busy → nextHostMove s = none → decode s.eng.lcmd = .instr i →
    step s = exec i s

/-- The host's accesses land in program order (20_memory.md R72 a): when IDLE the first pending one moves, and with none
the core does nothing (60_exceptions.md R296); when BUSY the first one moves before PERFORM exactly if it is early and not
held. The list and its early mark are the model's choice (log 8). -/
def Obligations.HostMovesInProgramOrder : Prop :=
  (∀ s : State, s.phase = .idle → s.host = [] → step s = .next s) ∧
  (∀ (s : State) (q : HostReq) (rest : List HostReq), s.host = q :: rest →
    (s.phase = .idle ∨ (s.phase = .busy ∧ q.early = true ∧ q.op.held = false)) →
    step s = .next (hostAccess q.op { s with host := rest })) ∧
  (∀ (s : State), s.phase = .busy → (∀ q ∈ s.host.head?, q.early = false ∨ q.op.held = true) → step s = perform s)

/-- 20_memory.md R64: a buffer access that finds the core BUSY is held; completion lifts the hold, and the access then
performs against the buffer as the command left it. That it stands first in the list of pending accesses (log 8), with
every later access waiting behind it (log 21; R72 a), is the model's choice. -/
def Obligations.BufferAccessIsHeldWhileBusy : Prop :=
  ∀ (s : State) (q : HostReq) (rest : List HostReq), s.phase = .busy → s.host = q :: rest →
    (∃ a v, q.op = .bufWrite a v ∨ q.op = .bufRead a) →
    ∃ t, step s = .next t ∧ t.phase = .idle ∧ t.host = q :: rest ∧
      step t = .next (hostAccess q.op { t with host := rest })

/-- The next step after `withFetchWord` runs exactly the table word's command (log 11). -/
def Obligations.FetchWordRunsNext : Prop :=
  ∀ (s : State) (w : Nat) (i : Instr), decodeTableWord 32 w = some i →
    step (s.withFetchWord 32 w) = exec i (s.withFetchWord 32 w)

/-- 44_cipher_engine.md R228: a CMD write while IDLE latches the word and the four operands, sets BUSY and clears the
outcome of the last command. Every word is issued. -/
def Obligations.IssueLatchesCommand : Prop :=
  ∀ (s : State) (v : Word), s.phase = .idle →
    regWrite 0 v s =
      { s with
        cmd := v
        eng := { s.eng with lcmd := v, la0 := s.a0, la1 := s.a1, la2 := s.a2, la3 := s.a3 }
        phase := .busy
        status := { s.status with done := false, err := false, errCode := 0 } }

/-- 44_cipher_engine.md R229: a CMD write while BUSY changes nothing but OVERRUN. -/
def Obligations.CmdWriteWhileBusyIsDropped : Prop :=
  ∀ (s : State) (v : Word), s.phase = .busy →
    regWrite 0 v s = { s with status := { s.status with overrun := true } }

/-- Every command completes: IDLE, DONE, and an outcome 0..8 (44_cipher_engine.md R230; 60_exceptions.md R280). -/
def Obligations.EveryCommandCompletes : Prop :=
  ∀ (i : Instr) (s : State), ∃ t code, exec i s = .next t ∧ code ≤ 8 ∧ Completes s t code

/-- No step stops the machine: model faults and refusals are marks that never end a command (60_exceptions.md R288). -/
def Obligations.EveryStepAnswersNext : Prop :=
  ∀ s : State, ∃ t, step s = .next t

/-- PERFORM is always eventually taken (44_cipher_engine.md R230): from any BUSY state, unless a reset arrives, the command
has completed after at most one step more than there are pending host accesses (the model's list, log 8). -/
def Obligations.PerformIsEventuallyTaken : Prop :=
  ∀ s : State, s.phase = .busy → (∀ q ∈ s.host, q.op ≠ .reset) →
    ∃ k t, k ≤ s.host.length + 1 ∧ core.run k s = .next t ∧ t.phase = .idle ∧ t.status.done = true

/-- While BUSY, no host access but reset touches the running command: its latches, the contexts, the table, RESULT and BUF
stay (70_reset_and_hazards.md R327, R328; 20_memory.md R76). Of the five operations only register accesses are not held. -/
def Obligations.HostCannotTouchRunningCommand : Prop :=
  ∀ (s : State) (op : HostOp), s.phase = .busy → op.held = false → op ≠ .reset →
    (hostAccess op s).eng = s.eng ∧ (hostAccess op s).phase = .busy ∧ (hostAccess op s).result = s.result ∧
      (hostAccess op s).ctxs = s.ctxs ∧ (hostAccess op s).spbox = s.spbox ∧
      (hostAccess op s).spboxBuilt = s.spboxBuilt ∧ (hostAccess op s).buf = s.buf ∧
      (hostAccess op s).status.done = s.status.done ∧ (hostAccess op s).status.err = s.status.err ∧
      (hostAccess op s).status.errCode = s.status.errCode

/-! ### Registers -/

/-- 30_encoding.md R92. -/
def Obligations.ReservedIndicesReadZero : Prop :=
  ∀ (s : State) (i : Fin 16) (v : Word), 9 ≤ i.val → s.regValue i = 0 ∧ regWrite i v s = s

/-- 30_encoding.md R93: writes to RESULT, CAP and BUFSZ are ignored; a write to STATUS changes only OVERRUN, which bit 9
clears (10_state.md R32). -/
def Obligations.ReadOnlyRegistersIgnoreWrites : Prop :=
  (∀ (s : State) (v : Word), regWrite 6 v s = s ∧ regWrite 7 v s = s ∧ regWrite 8 v s = s) ∧
  (∀ (s : State) (v : Word), regWrite 5 v s =
    { s with status := { s.status with overrun := s.status.overrun && !v.getLsbD 9 } })

/-- An operand register holds what was written, in either PHASE, and nothing else changes (30_encoding.md R90, R91). -/
def Obligations.OperandRegistersHoldWrites : Prop :=
  ∀ (s : State) (v : Word),
    (regWrite 1 v s = { s with a0 := v } ∧ (regWrite 1 v s).regValue 1 = v) ∧
    (regWrite 2 v s = { s with a1 := v } ∧ (regWrite 2 v s).regValue 2 = v) ∧
    (regWrite 3 v s = { s with a2 := v } ∧ (regWrite 3 v s).regValue 3 = v) ∧
    (regWrite 4 v s = { s with a3 := v } ∧ (regWrite 4 v s).regValue 4 = v)

/-- STATUS as the host reads it, bit by bit, with every unlisted bit 0 (10_state.md R32); BUSY is PHASE (R37). -/
def Obligations.StatusWordLayout : Prop :=
  ∀ s : State,
    ((s.regValue 5).getLsbD 0 = true ↔ s.phase = .busy) ∧
    (s.regValue 5).getLsbD 1 = s.status.done ∧
    (s.regValue 5).getLsbD 2 = s.status.err ∧
    (s.regValue 5).extractLsb' 4 4 = s.status.errCode ∧
    (s.regValue 5).getLsbD 8 = s.spboxBuilt ∧
    (s.regValue 5).getLsbD 9 = s.status.overrun ∧
    (∀ n, n = 3 ∨ 10 ≤ n → (s.regValue 5).getLsbD n = false)

/-- CAP and BUFSZ show the parameters, BUF_BYTES = 2^32 as 0 (10_state.md R31). -/
def Obligations.CapAndBufszShowParameters : Prop :=
  ∀ s : State, s.params.Legal →
    ((s.regValue 7).extractLsb' 0 8).toNat = s.params.nCtx ∧
    ((s.regValue 7).extractLsb' 8 16).toNat = s.params.maxLevel ∧
    (s.regValue 7).extractLsb' 24 8 = 0 ∧
    (s.regValue 8).toNat = (if s.params.bufBytes = 2 ^ 32 then 0 else s.params.bufBytes)

/-- A RegRead gives the host the register's value and changes nothing else: CMD reads the last accepted word, RESULT the
last result (30_encoding.md R90, R105). The list of values received is the model's choice (log 9). -/
def Obligations.RegisterReadOnlyDelivers : Prop :=
  (∀ (s : State) (i : Fin 16),
    hostAccess (.regRead i) s = { s with hostReads := s.hostReads ++ [.reg i (s.regValue i)] }) ∧
  (∀ s : State, s.regValue 0 = s.cmd ∧ s.regValue 6 = s.result)

/-! ### The buffer port -/

/-- 20_memory.md R61: BufWrite inside the RAM sets that byte and its mark and leaves every other byte and everything else
alone; BufRead of it then returns it and changes nothing else. The list of values
received is the model's choice (log 9). -/
def Obligations.BufWriteThenRead : Prop :=
  ∀ (s : State) (a : Nat) (v : Byte), a < s.params.bufBytes →
    (hostAccess (.bufWrite a v) s).buf.read a = some v ∧
    (∀ b, b ≠ a → (hostAccess (.bufWrite a v) s).buf.read b = s.buf.read b) ∧
    hostAccess (.bufWrite a v) s = { s with buf := (hostAccess (.bufWrite a v) s).buf } ∧
    (∀ t : State, t.params = s.params → t.buf.read a = some v →
      hostAccess (.bufRead a) t = { t with hostReads := t.hostReads ++ [.buf a v] })

/-- 20_memory.md R66 at the host port: reading an unwritten byte adds UninitRead(a) to FAULT and still returns a value,
which the model leaves free (log 5); the byte stays unwritten. -/
def Obligations.UnwrittenBufReadIsRecorded : Prop :=
  ∀ (s : State) (a : Nat), a < s.params.bufBytes → s.buf.read a = none →
    ∃ v t, hostAccess (.bufRead a) s = t ∧
      (∀ f, f ∈ t.faults ↔ f = .uninitRead a ∨ f ∈ s.faults) ∧
      t = { s with faults := t.faults, freeCount := t.freeCount, hostReads := s.hostReads ++ [.buf a v] }

/-- 20_memory.md R67: a host buffer access past the RAM sets REFUSED and has no other effect. -/
def Obligations.OutOfRangeAccessIsRefused : Prop :=
  ∀ (s : State) (a : Nat) (v : Byte), s.params.bufBytes ≤ a →
    hostAccess (.bufRead a) s = { s with refused := true } ∧
    hostAccess (.bufWrite a v) s = { s with refused := true }

/-! ### Reset -/

/-- 70_reset_and_hazards.md R320 and R321, at power-up and for a reset that arrives in any state: IDLE, registers and STATUS
0, CAP and BUFSZ unchanged, every slot invalid and zero, the table not built, no byte written, no mark. (The engine's registers, which the spec
leaves unspecified, are not mentioned.) -/
def Obligations.ResetValues : Prop :=
  ∀ (s : State) (t : State), (t = State.resetWith s.params ∨ t = hostAccess .reset s) →
    t.params = s.params ∧ t.phase = .idle ∧ t.cmd = 0 ∧ t.a0 = 0 ∧ t.a1 = 0 ∧ t.a2 = 0 ∧ t.a3 = 0 ∧ t.result = 0 ∧
    t.regValue 5 = 0 ∧ t.regValue 7 = s.regValue 7 ∧ t.regValue 8 = s.regValue 8 ∧ t.spboxBuilt = false ∧
    t.ctxs.length = s.params.nCtx ∧
    (∀ x ∈ t.ctxs, x.valid = false ∧ x.size = 0 ∧ x.rounds = 0 ∧ x.sched.length = 16 * s.params.maxLevel ∧
      ∀ k, x.subkey k = Subkey.zero) ∧
    (∀ a, t.buf.read a = none) ∧ t.Clean

/-- The invariant holds after reset, for every legal choice of the parameters. -/
def Obligations.ResetMeetsInv : Prop :=
  ∀ p : Params, p.Legal → (State.resetWith p).Inv

/-! ### Errors -/

/-- 60_exceptions.md R284: a command that ends with an error, an illegal word included, changes only STATUS (with PHASE,
which is its BUSY bit), and of STATUS not OVERRUN. -/
def Obligations.ErrorsChangeOnlyStatus : Prop :=
  ∀ s t : State, (perform s = .next t ∨ ∃ i, exec i s = .next t) → t.status.err = true →
    OnlyOutcome s t ∧ t.status.overrun = s.status.overrun

/-- 60_exceptions.md R283 with the causes of R280: the first error in the order word, slot, slot state, length or level,
range is the one reported, 0 if none; BLOCKSIZE and reserved operations make no slot check. That
DECRYPTBUF of length 0 reports a range error for an address above BUF_BYTES is the model's choice (log 25). -/
def Obligations.FirstErrorIsReported : Prop :=
  ∀ (s : State) (c : Nat),
    (∃ t, exec (.construct c) s = .next t ∧ Completes s t
      (if s.params.nCtx ≤ c then 2
        else if 1 ≤ s.eng.la0.toInt ∧ (s.params.maxLevel : Int) < s.eng.la0.toInt then 4 else 0)) ∧
    (∃ t, exec (.setkey c) s = .next t ∧ Completes s t
      (if s.params.nCtx ≤ c then 2 else if (s.ctxAt c).valid = false then 3
        else if s.eng.la1.toNat ≠ 8 * (s.ctxAt c).size.toNat then 5
        else if s.params.bufBytes < s.eng.la0.toNat + s.eng.la1.toNat then 8 else 0)) ∧
    (∀ i ∈ [Instr.encrypt c, .decrypt c], ∃ t, exec i s = .next t ∧ Completes s t
      (if s.params.nCtx ≤ c then 2 else if (s.ctxAt c).valid = false then 3
        else if s.eng.la1.toNat ≠ 8 ∨ s.eng.la3.toNat ≠ 8 then 6
        else if s.params.bufBytes < s.eng.la0.toNat + 8 ∨ s.params.bufBytes < s.eng.la2.toNat + 8 then 8 else 0)) ∧
    (∃ t, exec (.decryptbuf c) s = .next t ∧ Completes s t
      (if s.params.nCtx ≤ c then 2 else if (s.ctxAt c).valid = false then 3
        else if s.eng.la3.toNat < s.eng.la1.toNat then 7
        else if s.params.bufBytes < s.eng.la0.toNat + s.eng.la1.toNat ∨
          s.params.bufBytes < s.eng.la2.toNat + s.eng.la1.toNat then 8 else 0)) ∧
    (∀ i ∈ [Instr.clearkey c, .keysize c], ∃ t, exec i s = .next t ∧ Completes s t
      (if s.params.nCtx ≤ c then 2 else if (s.ctxAt c).valid = false then 3 else 0)) ∧
    (∃ t, exec (.blocksize c) s = .next t ∧ Completes s t 0) ∧
    (∀ i ∈ [Instr.reserved0 c, .reserved9 c, .reservedA c, .reservedB c, .reservedC c, .reservedD c, .reservedE c,
      .reservedF c], ∃ t, exec i s = .next t ∧ Completes s t 1)

/-- 44_cipher_engine.md R240: a reserved operation completes with ILLEGAL_COMMAND and no other change, whatever CTX is. -/
def Obligations.ReservedOperationsComplete : Prop :=
  ∀ (s : State) (c : Nat) (i : Instr),
    i ∈ [Instr.reserved0 c, .reserved9 c, .reservedA c, .reservedB c, .reservedC c, .reservedD c, .reservedE c,
      .reservedF c] → ∃ t, exec i s = .next t ∧ Completes s t 1 ∧ OnlyOutcome s t

/-! ### The commands -/

/-- CONSTRUCT (44_cipher_engine.md R232; 41_spbox.md R155): its two errors in order, each with no other change; else sizes
by the level, a zero schedule, valid, the table built if it was not, and no other slot and nothing else changed. -/
def Obligations.ConstructStartsSlot : Prop :=
  ∀ (s : State) (c : Nat), s.params.Legal → s.ctxs.length = s.params.nCtx →
    ∃ t, exec (.construct c) s = .next t ∧
      (s.params.nCtx ≤ c → Completes s t 2 ∧ OnlyOutcome s t) ∧
      (c < s.params.nCtx → 1 ≤ s.eng.la0.toInt ∧ (s.params.maxLevel : Int) < s.eng.la0.toInt →
        Completes s t 4 ∧ OnlyOutcome s t) ∧
      (c < s.params.nCtx → ¬(1 ≤ s.eng.la0.toInt ∧ (s.params.maxLevel : Int) < s.eng.la0.toInt) →
        Completes s t 0 ∧
        (t.ctxAt c).valid = true ∧
        (t.ctxAt c).size.toNat = (if s.eng.la0.toInt < 1 then 1 else s.eng.la0.toInt.toNat) ∧
        (t.ctxAt c).rounds.toNat = (if s.eng.la0.toInt < 1 then 8 else 16 * s.eng.la0.toInt.toNat) ∧
        (t.ctxAt c).sched.length = 16 * s.params.maxLevel ∧ (∀ k, (t.ctxAt c).subkey k = Subkey.zero) ∧
        t.spboxBuilt = true ∧ (s.spboxBuilt = true → t.spbox = s.spbox) ∧
        (s.spboxBuilt = false → ∀ (b : Fin 4) (i : BitVec 10), t.spbox.read b i.toNat = spboxValue b i) ∧
        (∀ d, d ≠ c → t.ctxAt d = s.ctxAt d) ∧
        t = { s with phase := t.phase, status := t.status, eng := t.eng, freeCount := t.freeCount, ctxs := t.ctxs,
                     spbox := t.spbox, spboxBuilt := t.spboxBuilt })

/-- SETKEY completes on any key bytes, written or not (44_cipher_engine.md R233; 20_memory.md R66): only the slot's schedule
changes; each unwritten key byte is recorded. -/
def Obligations.SetkeyCompletes : Prop :=
  ∀ (s : State) (c : Nat), s.ctxs.length = s.params.nCtx → c < s.params.nCtx → (s.ctxAt c).valid = true →
    s.eng.la1.toNat = 8 * (s.ctxAt c).size.toNat → s.eng.la0.toNat + s.eng.la1.toNat ≤ s.params.bufBytes →
    ∃ t, exec (.setkey c) s = .next t ∧ Completes s t 0 ∧
      t.ctxAt c = { s.ctxAt c with sched := (t.ctxAt c).sched } ∧
      (t.ctxAt c).sched.length = (s.ctxAt c).sched.length ∧
      (∀ d, d ≠ c → t.ctxAt d = s.ctxAt d) ∧
      (∀ a, t.buf.read a = s.buf.read a) ∧
      (∀ f, f ∈ t.faults ↔ f ∈ s.faults ∨ ∃ j, j < s.eng.la1.toNat ∧ f = .uninitRead (s.eng.la0.toNat + j) ∧
        s.buf.read (s.eng.la0.toNat + j) = none) ∧
      t = { s with phase := t.phase, status := t.status, eng := t.eng, freeCount := t.freeCount, ctxs := t.ctxs,
                   faults := t.faults }

/-- SETKEY of a thin slot, in closed form (43_key_schedule.md R191 to R194, R196, R200). -/
def Obligations.ThinScheduleClosedForm : Prop :=
  ∀ (s : State) (c : Nat) (K : List Byte), s.ctxs.length = s.params.nCtx → c < s.params.nCtx →
    (s.ctxAt c).valid = true → (s.ctxAt c).size.toNat = 1 → (s.ctxAt c).rounds.toNat = 8 →
    8 ≤ (s.ctxAt c).sched.length → s.eng.la1.toNat = 8 → s.eng.la0.toNat + 8 ≤ s.params.bufBytes → K.length = 8 →
    (∀ j, (hj : j < K.length) → s.buf.read (s.eng.la0.toNat + j) = some K[j]) →
    ∃ t, exec (.setkey c) s = .next t ∧ Completes s t 0 ∧
      ∀ r, r < 8 → IsRoundOf (loadKb K) 0 0 r ((t.ctxAt c).subkey r)

/-- SETKEY of a level-n slot, in closed form (43_key_schedule.md R191 to R193, R195, R196, R198, R200): chunk i gives rounds
8i..8i+7, and, 120 steps on, the mirrored rounds. -/
def Obligations.StandardScheduleClosedForm : Prop :=
  ∀ (s : State) (c : Nat) (K : List Byte), s.ctxs.length = s.params.nCtx → c < s.params.nCtx →
    (s.ctxAt c).valid = true → 1 ≤ (s.ctxAt c).size.toNat →
    (s.ctxAt c).rounds.toNat = 16 * (s.ctxAt c).size.toNat →
    (s.ctxAt c).rounds.toNat ≤ (s.ctxAt c).sched.length → s.eng.la1.toNat = 8 * (s.ctxAt c).size.toNat →
    s.eng.la0.toNat + s.eng.la1.toNat ≤ s.params.bufBytes → K.length = s.eng.la1.toNat →
    (∀ j, (hj : j < K.length) → s.buf.read (s.eng.la0.toNat + j) = some K[j]) →
    ∃ t, exec (.setkey c) s = .next t ∧ Completes s t 0 ∧
      ∀ i r, i < (s.ctxAt c).size.toNat → r < 8 →
        IsRoundOf (loadKb ((K.drop (8 * i)).take 8)) 0 0 r ((t.ctxAt c).subkey (8 * i + r)) ∧
        IsRoundOf (loadKb ((K.drop (8 * i)).take 8)) 8 120 r
          ((t.ctxAt c).subkey ((s.ctxAt c).rounds.toNat - 8 - 8 * i + r))

/-- 43_key_schedule.md R198: SETKEY replaces the whole schedule; nothing of an earlier one survives in entries below
rounds. -/
def Obligations.SetkeyReplacesWholeSchedule : Prop :=
  ∀ (s s' t t' : State) (c k : Nat), SameButSchedules s s' → s.ctxs.length = s.params.nCtx →
    (s.ctxAt c).Inv s.params → (s.ctxAt c).valid = true → k < (s.ctxAt c).rounds.toNat →
    exec (.setkey c) s = .next t → exec (.setkey c) s' = .next t' → t.status.err = false →
    (t'.ctxAt c).subkey k = (t.ctxAt c).subkey k

/-- 44_cipher_engine.md R234 with R222, R223, R225: ENCRYPT of eight written bytes. The store is at the latched A2; every
byte outside its eight reads as before. -/
def Obligations.EncryptWritesBlock : Prop :=
  ∀ (s : State) (c : Nat) (B : List Byte), c < s.params.nCtx → (s.ctxAt c).valid = true → s.spboxBuilt = true →
    s.eng.la1.toNat = 8 → s.eng.la3.toNat = 8 →
    s.eng.la0.toNat + 8 ≤ s.params.bufBytes → s.eng.la2.toNat + 8 ≤ s.params.bufBytes → B.length = 8 →
    (∀ j, (hj : j < B.length) → s.buf.read (s.eng.la0.toNat + j) = some B[j]) →
    ∃ t, exec (.encrypt c) s = .next t ∧ Completes s t 0 ∧
      (∀ j, j < 8 → t.buf.read (s.eng.la2.toNat + j) =
        (blockBytes (feistel s.spbox (s.ctxAt c).encPairs (blockHalves B)))[j]?) ∧
      (∀ a, ¬(s.eng.la2.toNat ≤ a ∧ a < s.eng.la2.toNat + 8) → t.buf.read a = s.buf.read a) ∧
      t = { s with phase := t.phase, status := t.status, eng := t.eng, freeCount := t.freeCount, buf := t.buf }

/-- 44_cipher_engine.md R235 with R222, R223, R226: DECRYPT of eight written bytes. -/
def Obligations.DecryptWritesBlock : Prop :=
  ∀ (s : State) (c : Nat) (B : List Byte), c < s.params.nCtx → (s.ctxAt c).valid = true → s.spboxBuilt = true →
    s.eng.la1.toNat = 8 → s.eng.la3.toNat = 8 →
    s.eng.la0.toNat + 8 ≤ s.params.bufBytes → s.eng.la2.toNat + 8 ≤ s.params.bufBytes → B.length = 8 →
    (∀ j, (hj : j < B.length) → s.buf.read (s.eng.la0.toNat + j) = some B[j]) →
    ∃ t, exec (.decrypt c) s = .next t ∧ Completes s t 0 ∧
      (∀ j, j < 8 → t.buf.read (s.eng.la2.toNat + j) =
        (blockBytes (feistel s.spbox (s.ctxAt c).decPairs (blockHalves B)))[j]?) ∧
      (∀ a, ¬(s.eng.la2.toNat ≤ a ∧ a < s.eng.la2.toNat + 8) → t.buf.read a = s.buf.read a) ∧
      t = { s with phase := t.phase, status := t.status, eng := t.eng, freeCount := t.freeCount, buf := t.buf }

/-- ENCRYPT and DECRYPT complete on any source bytes (20_memory.md R66; 44_cipher_engine.md R230): the destination is
written, each unwritten source byte is recorded, nothing else changes. -/
def Obligations.BlockCommandsCompleteOnAnyBytes : Prop :=
  ∀ (s : State) (c : Nat) (i : Instr), i ∈ [Instr.encrypt c, .decrypt c] → c < s.params.nCtx →
    (s.ctxAt c).valid = true → s.spboxBuilt = true → s.eng.la1.toNat = 8 → s.eng.la3.toNat = 8 →
    s.eng.la0.toNat + 8 ≤ s.params.bufBytes → s.eng.la2.toNat + 8 ≤ s.params.bufBytes →
    ∃ t, exec i s = .next t ∧ Completes s t 0 ∧
      (∀ j, j < 8 → (t.buf.read (s.eng.la2.toNat + j)).isSome) ∧
      (∀ a, ¬(s.eng.la2.toNat ≤ a ∧ a < s.eng.la2.toNat + 8) → t.buf.read a = s.buf.read a) ∧
      (∀ f, f ∈ t.faults ↔ f ∈ s.faults ∨ ∃ j, j < 8 ∧ f = .uninitRead (s.eng.la0.toNat + j) ∧
        s.buf.read (s.eng.la0.toNat + j) = none) ∧
      t = { s with phase := t.phase, status := t.status, eng := t.eng, freeCount := t.freeCount, buf := t.buf,
                   faults := t.faults }

/-- DECRYPTBUF completes on any source bytes and any overlap (44_cipher_engine.md R236): exactly the n destination bytes are
written, whatever the capacity; only unwritten source bytes are recorded; nothing else changes. -/
def Obligations.DecryptbufCompletesOnAnyBytes : Prop :=
  ∀ (s : State) (c : Nat), c < s.params.nCtx → (s.ctxAt c).valid = true → s.spboxBuilt = true →
    s.eng.la1.toNat ≤ s.eng.la3.toNat → s.eng.la0.toNat + s.eng.la1.toNat ≤ s.params.bufBytes →
    s.eng.la2.toNat + s.eng.la1.toNat ≤ s.params.bufBytes →
    ∃ t, exec (.decryptbuf c) s = .next t ∧ Completes s t 0 ∧
      (∀ j, j < s.eng.la1.toNat → (t.buf.read (s.eng.la2.toNat + j)).isSome) ∧
      (∀ a, ¬(s.eng.la2.toNat ≤ a ∧ a < s.eng.la2.toNat + s.eng.la1.toNat) → t.buf.read a = s.buf.read a) ∧
      (∀ f, f ∈ s.faults → f ∈ t.faults) ∧
      (∀ f, f ∈ t.faults → f ∈ s.faults ∨ ∃ j, j < s.eng.la1.toNat ∧ f = .uninitRead (s.eng.la0.toNat + j) ∧
        s.buf.read (s.eng.la0.toNat + j) = none) ∧
      t = { s with phase := t.phase, status := t.status, eng := t.eng, freeCount := t.freeCount, buf := t.buf,
                   faults := t.faults }

/-- 44_cipher_engine.md R236 on written bytes, in place or with disjoint ranges (20_memory.md R69): whole blocks are
decrypted, the 0 to 7 tail bytes are copied to their own offset, and FAULT gains nothing. -/
def Obligations.DecryptbufDecryptsBlocksAndCopiesTail : Prop :=
  ∀ (s : State) (c : Nat) (B : List Byte), c < s.params.nCtx → (s.ctxAt c).valid = true → s.spboxBuilt = true →
    s.eng.la1.toNat ≤ s.eng.la3.toNat → s.eng.la0.toNat + s.eng.la1.toNat ≤ s.params.bufBytes →
    s.eng.la2.toNat + s.eng.la1.toNat ≤ s.params.bufBytes → B.length = s.eng.la1.toNat →
    (∀ j, (hj : j < B.length) → s.buf.read (s.eng.la0.toNat + j) = some B[j]) →
    (s.eng.la2 = s.eng.la0 ∨ s.eng.la0.toNat + B.length ≤ s.eng.la2.toNat ∨
      s.eng.la2.toNat + B.length ≤ s.eng.la0.toNat) →
    ∃ t, exec (.decryptbuf c) s = .next t ∧ Completes s t 0 ∧ t.faults = s.faults ∧
      ∀ j, j < B.length → t.buf.read (s.eng.la2.toNat + j) =
        (if j < 8 * (B.length / 8) then
          (blockBytes (feistel s.spbox (s.ctxAt c).decPairs
            (blockHalves ((B.drop (8 * (j / 8))).take 8))))[j % 8]?
        else B[j]?)

/-- CLEARKEY (44_cipher_engine.md R237): its two errors in order, each with no other change; else the slot's schedule is
zero, valid, size and rounds stay, and no other slot and nothing else changes. -/
def Obligations.ClearkeyZeroesSchedule : Prop :=
  ∀ (s : State) (c : Nat), s.ctxs.length = s.params.nCtx →
    ∃ t, exec (.clearkey c) s = .next t ∧
      (s.params.nCtx ≤ c → Completes s t 2 ∧ OnlyOutcome s t) ∧
      (c < s.params.nCtx → (s.ctxAt c).valid = false → Completes s t 3 ∧ OnlyOutcome s t) ∧
      (c < s.params.nCtx → (s.ctxAt c).valid = true →
        Completes s t 0 ∧ t.ctxAt c = { s.ctxAt c with sched := (t.ctxAt c).sched } ∧
        (t.ctxAt c).sched.length = 16 * s.params.maxLevel ∧ (∀ k, (t.ctxAt c).subkey k = Subkey.zero) ∧
        (∀ d, d ≠ c → t.ctxAt d = s.ctxAt d) ∧
        t = { s with phase := t.phase, status := t.status, eng := t.eng, freeCount := t.freeCount, ctxs := t.ctxs })

/-- KEYSIZE (44_cipher_engine.md R238): its two errors in order, each with no other change, RESULT included; else RESULT is
8·size, and nothing else changes. -/
def Obligations.KeysizeWritesResult : Prop :=
  ∀ (s : State) (c : Nat),
    ∃ t, exec (.keysize c) s = .next t ∧
      (s.params.nCtx ≤ c → Completes s t 2 ∧ OnlyOutcome s t) ∧
      (c < s.params.nCtx → (s.ctxAt c).valid = false → Completes s t 3 ∧ OnlyOutcome s t) ∧
      (c < s.params.nCtx → (s.ctxAt c).valid = true →
        Completes s t 0 ∧ t.result.toNat = 8 * (s.ctxAt c).size.toNat ∧
        t = { s with phase := t.phase, status := t.status, eng := t.eng, freeCount := t.freeCount, result := t.result })

/-- 44_cipher_engine.md R239: BLOCKSIZE writes 8 to RESULT in every state, with any CTX, and nothing else changes. -/
def Obligations.BlocksizeWritesEight : Prop :=
  ∀ (s : State) (c : Nat),
    ∃ t, exec (.blocksize c) s = .next t ∧ Completes s t 0 ∧ t.result = 8 ∧
      t = { s with phase := t.phase, status := t.status, eng := t.eng, freeCount := t.freeCount, result := t.result }

/-- 44_cipher_engine.md R242: a command changes no slot but its own, and besides it only BUF, STATUS (with PHASE), RESULT,
SPBOX and SPBOX_BUILT, the model's marks and the engine's unspecified registers. -/
def Obligations.ContextsAreIndependent : Prop :=
  ∀ (i : Instr) (s t : State), exec i s = .next t →
    (∀ d, d ≠ i.ctx → t.ctxAt d = s.ctxAt d) ∧
    ((∀ c, i ≠ .construct c) → t.spbox = s.spbox ∧ t.spboxBuilt = s.spboxBuilt) ∧
    t = { s with phase := t.phase, status := t.status, eng := t.eng, freeCount := t.freeCount, ctxs := t.ctxs,
                 buf := t.buf, result := t.result, spbox := t.spbox, spboxBuilt := t.spboxBuilt, faults := t.faults }

/-! ### The algorithm -/

/-- 40_galois_field.md R122: GF_MUL equals the loop run for exactly 8 iterations with the test b[i] = 1. -/
def Obligations.GfMulRunsEightIterations : Prop :=
  ∀ (a b : Byte) (m : BitVec 9), gfMul a b m =
    ((List.range 8).foldl (fun (x : Byte × BitVec 9) i =>
      (if b.getLsbD i then x.1 ^^^ x.2.setWidth 8 else x.1,
        if 256 ≤ (x.2 <<< 1).toNat then (x.2 <<< 1) ^^^ m else x.2 <<< 1)) (0, a.setWidth 9)).1

/-- 40_galois_field.md R124: the corner cases of GF_MUL and its commutativity, for moduli in the domain. -/
def Obligations.GfMulCornersAndCommutes : Prop :=
  ∀ (a b : Byte) (m : BitVec 9), 256 ≤ m.toNat →
    gfMul a 0 m = 0 ∧ gfMul 0 b m = 0 ∧ gfMul a 1 m = a ∧ gfMul 1 b m = b ∧ gfMul a b m = gfMul b a m

/-- 40_galois_field.md R128: for each modulus of SMOD, b ↦ GF_EXP7(b, m) takes 256 distinct values, and it fixes 0
and 1. -/
def Obligations.GfExp7IsInjective : Prop :=
  ∀ t row : Fin 4, (∀ a b : Byte, gfExp7 a (smod t row) = gfExp7 b (smod t row) → a = b) ∧
    gfExp7 0 (smod t row) = 0 ∧ gfExp7 1 (smod t row) = 1

/-- 40_galois_field.md R125: the units exposed on their own refuse exactly the inputs outside their domains. The answer `none`
is the model's form of the refusal (log 17). -/
def Obligations.GfPortsRefuseOutsideDomain : Prop :=
  ∀ a b m : Nat,
    (gfMulPort a b m = none ↔ (256 ≤ a ∨ 256 ≤ b ∨ m < 256 ∨ 512 ≤ m)) ∧
    (gfExp7Port b m = none ↔ (256 ≤ b ∨ m < 256 ∨ 512 ≤ m))

/-- 41_spbox.md R146: each entry of PBOX has exactly one bit set and together they set all 32; PERM32 sends input bit j alone
to PBOX[j], and is a bijection on 32-bit values. -/
def Obligations.Perm32IsBijection : Prop :=
  Function.Bijective perm32 ∧ (∀ j : Fin 32, some (perm32 (1#32 <<< j.val)) = pboxTable[j.val]?) ∧
  (∀ w ∈ pboxTable, ∃ k : Fin 32, w = 1#32 <<< k.val) ∧ pboxTable.foldl (· ||| ·) 0 = 0xFFFFFFFF#32 ∧
  perm32 0 = 0 ∧ perm32 0xFFFFFFFF#32 = 0xFFFFFFFF#32 ∧ perm32 0x00000002#32 = 0x00000080#32 ∧
  perm32 0x12345678#32 = 0x056F2360#32

/-- 41_spbox.md R149: an entry of table t has set bits only in that table's mask, and the four masks are pairwise
disjoint. -/
def Obligations.SpboxEntriesKeepToTheirMask : Prop :=
  (∀ i : BitVec 10, spboxValue 0 i &&& ~~~0x82141842#32 = 0 ∧ spboxValue 1 i &&& ~~~0x18428214#32 = 0 ∧
    spboxValue 2 i &&& ~~~0x24814128#32 = 0 ∧ spboxValue 3 i &&& ~~~0x41282481#32 = 0) ∧
  ([0x82141842#32, 0x18428214#32, 0x24814128#32, 0x41282481#32].Pairwise fun x y => x &&& y = 0)

/-- 42_round_function.md R172 and R173: the bit forms of the two expansions. -/
def Obligations.ExpansionsBitForm : Prop :=
  ∀ p : Word,
    expandL p = p.extractLsb' 0 2 ++ p.extractLsb' 24 8 ++ p.extractLsb' 16 10 ∧
    expandR p = p.extractLsb' 8 10 ++ p.extractLsb' 0 10

/-- 42_round_function.md R174: before the XOR with sk[0] and sk[1], the salt step swaps tl and tr where sk[2] has a 1. -/
def Obligations.SaltSwapsWhereSet : Prop :=
  ∀ (p : Word) (sk : Subkey) (q : Nat), q < 20 →
    (saltL p sk ^^^ sk.s0).getLsbD q = (if sk.s2.getLsbD q then (expandR p).getLsbD q else (expandL p).getLsbD q) ∧
    (saltR p sk ^^^ sk.s1).getLsbD q = (if sk.s2.getLsbD q then (expandL p).getLsbD q else (expandR p).getLsbD q)

/-- 42_round_function.md R176: over the built table, the four words of ROUND_F are pairwise disjoint, their OR is their XOR
and their sum, and each output bit comes from the one table whose mask (41_spbox.md R149) holds it. -/
def Obligations.RoundLookupsAreDisjoint : Prop :=
  ∀ (p : Word) (sk : Subkey),
    let w0 := SpBox.built.read 0 (saltL p sk >>> 10).toNat
    let w1 := SpBox.built.read 1 (saltL p sk &&& 0x3FF).toNat
    let w2 := SpBox.built.read 2 (saltR p sk >>> 10).toNat
    let w3 := SpBox.built.read 3 (saltR p sk &&& 0x3FF).toNat
    ([w0, w1, w2, w3].Pairwise fun x y => x &&& y = 0) ∧
    roundF SpBox.built p sk = w0 ^^^ w1 ^^^ w2 ^^^ w3 ∧ roundF SpBox.built p sk = w0 + w1 + w2 + w3 ∧
    roundF SpBox.built p sk &&& 0x82141842#32 = w0 ∧ roundF SpBox.built p sk &&& 0x18428214#32 = w1 ∧
    roundF SpBox.built p sk &&& 0x24814128#32 = w2 ∧ roundF SpBox.built p sk &&& 0x41282481#32 = w3

/-- 43_key_schedule.md R200: the closed form of the bits BIT_STEP takes; the word is complemented after 16 steps and back
after 32; and one pass of SCHEDULE_BUILD takes 120 steps on each word. -/
def Obligations.BitStepClosedForm : Prop :=
  (∀ (w : Half) (n : Nat), takenBit (rotatedWord^[n] w) = BitVec.ofBool (closedBit w n)) ∧
  (∀ w : Half, rotatedWord^[16] w = ~~~w ∧ rotatedWord^[32] w = w) ∧ rotatedWord^[120] 0x1234#16 = 0x34ED#16 ∧
  (∀ (s : State) (c n : Nat) (ro : Fin 16) (w : BitVec 2),
    (scheduleBuild c n ro s).eng.kb.get w = rotatedWord^[120] (s.eng.kb.get w))

/-- 44_cipher_engine.md R227: with the same schedule, over an even number of rounds, DEC_BLOCK and ENC_BLOCK undo one
another on every 8-byte block, whatever the table holds. -/
def Obligations.DecryptInvertsEncrypt : Prop :=
  ∀ (s : State) (c : Nat) (B : List Byte), B.length = 8 → (s.ctxAt c).rounds.toNat % 2 = 0 →
    (decBlock c (encBlock c B s).1 s).1 = B ∧ (encBlock c (decBlock c B s).1 s).1 = B

/-- The round trip at the commands (44_cipher_engine.md R227, R234, R235): ENCRYPT of eight written bytes, then DECRYPT of
its output to any address d, leaves the original bytes at d. -/
def Obligations.EncryptThenDecryptRestoresBlock : Prop :=
  ∀ (s t : State) (c : Nat) (d : Word) (B : List Byte), s.Inv → B.length = 8 →
    (∀ j, (hj : j < B.length) → s.buf.read (s.eng.la0.toNat + j) = some B[j]) →
    exec (.encrypt c) s = .next t → t.status.err = false → d.toNat + 8 ≤ s.params.bufBytes →
    ∃ u, exec (.decrypt c)
        { t with eng := { t.eng with la0 := s.eng.la2, la1 := 8, la2 := d, la3 := 8 } } = .next u ∧
      Completes t u 0 ∧ ∀ j, (hj : j < B.length) → u.buf.read (d.toNat + j) = some B[j]

/-- 44_cipher_engine.md R241: under the all-zero schedule ENC_BLOCK = DEC_BLOCK, and that function is its own inverse. -/
def Obligations.ZeroScheduleIsSelfInverse : Prop :=
  ∀ (s : State) (c : Nat) (B : List Byte), B.length = 8 → (s.ctxAt c).rounds.toNat % 2 = 0 →
    (∀ k, (s.ctxAt c).subkey k = Subkey.zero) →
    (encBlock c B s).1 = (decBlock c B s).1 ∧ (encBlock c (encBlock c B s).1 s).1 = B

/-! ### Whole-machine statements -/

/-- Every step keeps the invariant, from every state that meets it. -/
def Obligations.StepKeepsInv : Prop :=
  ∀ s t : State, s.Inv → step s = .next t → t.Inv

/-- 41_spbox.md R159: SPBOX and SPBOX_BUILT are changed by no host access but reset, by no command but CONSTRUCT, by no error
completion, and, once built, by no command at all. -/
def Obligations.BuiltTableIsNeverChanged : Prop :=
  ∀ s t : State, step s = .next t → (∀ op rest, nextHostMove s = some (op, rest) → op ≠ .reset) →
    (s.spboxBuilt = true ∨ t.status.err = true ∨ (nextHostMove s).isSome ∨ ∀ c, fetch s ≠ .instr (.construct c)) →
    t.spboxBuilt = s.spboxBuilt ∧ t.spbox = s.spbox

/-- 60_exceptions.md R290: schedule values reach nothing the host can read, except through the three block transforms. From
two states that differ only in schedule values, any other step leads to two such states: the same registers, buffer,
STATUS and values read. -/
def Obligations.ScheduleIsNotHostReadable : Prop :=
  ∀ s s' t t' : State, SameButSchedules s s' → step s = .next t → step s' = .next t' →
    (s.phase = .busy → nextHostMove s = none →
      ∀ c, fetch s ≠ .instr (.encrypt c) ∧ fetch s ≠ .instr (.decrypt c) ∧ fetch s ≠ .instr (.decryptbuf c)) →
    SameButSchedules t t'
end

