-- ==== Sys2Proof/Laws/Bytes.lean ====
section
/-! SUPPORT. The byte order of words and blocks (00_scope.md R13; 44_cipher_engine.md R222, R223). -/

namespace Sys2Proof.Machine

/-- Bit i of be32, byte by byte. -/
theorem be32_getLsbD (a b c d : Byte) {i : Nat} (hi : i < 32) :
    (be32 a b c d).getLsbD i =
      if i < 8 then d.getLsbD i else if i < 16 then c.getLsbD (i - 8) else if i < 24 then b.getLsbD (i - 16)
      else a.getLsbD (i - 24) := by
  refine (BitVec.getLsbD_append (x := a ++ b ++ c) (y := d) (i := i)).trans ?_
  rw [BitVec.getLsbD_append, BitVec.getLsbD_append]
  split_ifs <;> first | rfl | omega

@[simp] theorem unbe32_be32 (a b c d : Byte) : unbe32 (be32 a b c d) = [a, b, c, d] := by
  simp only [unbe32]
  refine List.cons_eq_cons.2 ⟨?_, List.cons_eq_cons.2 ⟨?_, List.cons_eq_cons.2 ⟨?_, List.cons_eq_cons.2 ⟨?_, rfl⟩⟩⟩⟩ <;>
  · apply BitVec.eq_of_getLsbD_eq
    intro i hi
    rw [BitVec.getLsbD_extractLsb', be32_getLsbD _ _ _ _ (by omega)]
    simp [hi, show ¬24 + i < 16 by omega, show ¬24 + i < 8 by omega, show ¬16 + i < 8 by omega,
      show 16 + i < 24 by omega, show ¬16 ≤ 8 + i by omega]

@[simp] theorem be32_extract (w : Word) :
    be32 (w.extractLsb' 24 8) (w.extractLsb' 16 8) (w.extractLsb' 8 8) (w.extractLsb' 0 8) = w := by
  apply BitVec.eq_of_getLsbD_eq
  intro i hi
  rw [be32_getLsbD _ _ _ _ (by omega)]
  simp only [BitVec.getLsbD_extractLsb']
  split_ifs <;>
  · rw [decide_eq_true (by omega), Bool.true_and]
    congr 1
    omega

/-- Output bytes put R first, so reading them back swaps the halves. -/
@[simp] theorem blockHalves_blockBytes (h : Word × Word) : blockHalves (blockBytes h) = (h.2, h.1) := by
  simp [blockBytes, unbe32, blockHalves]

/-- Every 8-byte block is the output of its swapped halves. -/
theorem blockBytes_blockHalves {B : List Byte} (hB : B.length = 8) :
    blockBytes ((blockHalves B).2, (blockHalves B).1) = B := by
  match B, hB with
  | [_, _, _, _, _, _, _, _], _ => simp [blockHalves, blockBytes]

end Sys2Proof.Machine
end

