-- ==== Sys2Proof/Laws/Encoding.lean ====
section
/-! SUPPORT. The fields of an encoded word, and the row each OP selects. -/

namespace Sys2Proof

/-- The opcode map is one to one, its last arm OP 0xF alone (30_encoding.md R95). -/
@[simp] theorem op_instrOfOp (op : BitVec 4) (c : Nat) : (instrOfOp op c).op = op := by
  have h : ∀ n : Fin 16, (instrOfOp (BitVec.ofFin n) c).op = BitVec.ofFin n := by
    intro n
    fin_cases n <;> rfl
  exact h op.toFin

@[simp] theorem ctx_instrOfOp (op : BitVec 4) (c : Nat) : (instrOfOp op c).ctx = c := by
  unfold instrOfOp
  split <;> rfl

/-- A command is its OP and its slot index. -/
@[simp] theorem instrOfOp_op_ctx (i : Instr) : instrOfOp i.op i.ctx = i := by
  cases i <;> rfl

theorem instr_ext {i j : Instr} (ho : i.op = j.op) (hc : i.ctx = j.ctx) : i = j := by
  rw [← instrOfOp_op_ctx i, ← instrOfOp_op_ctx j, ho, hc]

end Sys2Proof
end

