-- ==== Sys2Proof/Laws/Memory.lean ====
section
/-! SUPPORT. The buffer RAM and the FAULT set: read after write, and that every operation keeps the canonical forms. -/

namespace Sys2Proof.Machine

/-! ### One byte -/

theorem Memory.read_write_same (m : Memory) (a : Nat) (v : Byte) : (m.write a v).read a = some v := by
  induction m with
  | nil => simp [Memory.write, Memory.read]
  | cons x m ih =>
    obtain ⟨b, w⟩ := x
    simp only [Memory.write]
    split
    · simp [Memory.read]
    · split
      · simp [Memory.read]
      · rename_i h1 h2
        simp only [Memory.read, ih]
        rw [if_neg (fun h => h2 h.symm)]

theorem Memory.read_write_other (m : Memory) {a b : Nat} (v : Byte) (h : b ≠ a) :
    (m.write a v).read b = m.read b := by
  induction m with
  | nil => simp [Memory.write, Memory.read, h.symm]
  | cons x m ih =>
    obtain ⟨c, w⟩ := x
    simp only [Memory.write]
    split
    · simp [Memory.read, h.symm]
    · split
      · rename_i h1 h2
        subst h2
        simp [Memory.read, h.symm]
      · simp only [Memory.read, ih]

/-- A byte read after a write, at any address. -/
theorem Memory.read_write (m : Memory) (a b : Nat) (v : Byte) :
    (m.write a v).read b = if b = a then some v else m.read b := by
  split
  · rename_i h; rw [h, Memory.read_write_same]
  · rename_i h; exact Memory.read_write_other m v h

/-- The addresses listed after a write. -/
theorem Memory.mem_write {m : Memory} {a : Nat} {v : Byte} {x : Host.Cell} (h : x ∈ m.write a v) :
    x = (a, v) ∨ x ∈ m := by
  induction m with
  | nil => simpa [Memory.write] using h
  | cons y m ih =>
    obtain ⟨b, w⟩ := y
    simp only [Memory.write] at h
    split at h
    · simpa using h
    · split at h
      · rcases List.mem_cons.1 h with h | h
        · exact .inl h
        · exact .inr (List.mem_cons_of_mem _ h)
      · rcases List.mem_cons.1 h with h | h
        · exact .inr (h ▸ List.mem_cons_self)
        · rcases ih h with h | h
          · exact .inl h
          · exact .inr (List.mem_cons_of_mem _ h)

/-- A write keeps the canonical form. -/
theorem Memory.write_wf {m : Memory} (a : Nat) (v : Byte) (h : m.wf) : (m.write a v).wf := by
  induction m with
  | nil => simp [Memory.write, Memory.wf]
  | cons y m ih =>
    obtain ⟨b, w⟩ := y
    have hb := (List.pairwise_cons.1 h).1
    have hm := (List.pairwise_cons.1 h).2
    simp only [Memory.write]
    split
    · rename_i hab
      refine List.pairwise_cons.2 ⟨fun x hx => ?_, h⟩
      rcases List.mem_cons.1 hx with rfl | hx
      · exact hab
      · exact Nat.lt_trans hab (hb x hx)
    · split
      · rename_i h1 h2
        subst h2
        exact List.pairwise_cons.2 ⟨hb, hm⟩
      · rename_i h1 h2
        refine List.pairwise_cons.2 ⟨fun x hx => ?_, ih hm⟩
        rcases Memory.mem_write hx with rfl | hx
        · exact Nat.lt_of_le_of_ne (Nat.le_of_not_lt h1) (fun e => h2 e.symm)
        · exact hb x hx

/-- A listed cell of a canonical memory is what its address reads as. -/
theorem Memory.read_of_mem {m : Memory} (h : m.wf) {x : Host.Cell} (hx : x ∈ m) : m.read x.1 = some x.2 := by
  induction m with
  | nil => cases hx
  | cons y m ih =>
    obtain ⟨b, w⟩ := y
    have hb := (List.pairwise_cons.1 h).1
    rcases List.mem_cons.1 hx with rfl | hx
    · simp [Memory.read]
    · have := hb x hx
      simp only [Memory.read]
      rw [if_neg (Nat.ne_of_lt this), ih (List.pairwise_cons.1 h).2 hx]

/-- What an address reads as is listed. -/
theorem Memory.mem_of_read {m : Memory} {a : Nat} {v : Byte} (h : m.read a = some v) : (a, v) ∈ m := by
  induction m with
  | nil => simp [Memory.read] at h
  | cons y m ih =>
    obtain ⟨b, w⟩ := y
    simp only [Memory.read] at h
    split at h
    · rename_i hb
      cases h; subst hb; exact List.mem_cons_self
    · exact List.mem_cons_of_mem _ (ih h)

/-! ### The FAULT set -/

theorem mem_insertRecord {fs : List FaultRecord} {f g : FaultRecord} :
    g ∈ insertRecord fs f ↔ g = f ∨ g ∈ fs := by
  induction fs with
  | nil => simp [insertRecord]
  | cons k fs ih =>
    simp only [insertRecord]
    split
    · simp
    · split
      · rename_i h1 h2; subst h2; simp
      · simp only [List.mem_cons, ih]; tauto

theorem FaultRecord.rank_injective {f g : FaultRecord} (h : f.rank = g.rank) : f = g := by
  cases f <;> cases g <;> simp_all [FaultRecord.rank]

/-- Adding a record keeps the canonical listing. -/
theorem insertRecord_wf {fs : List FaultRecord} (f : FaultRecord)
    (h : fs.Pairwise fun f g => f.rank < g.rank) :
    (insertRecord fs f).Pairwise fun f g => f.rank < g.rank := by
  induction fs with
  | nil => simp [insertRecord]
  | cons k fs ih =>
    have hk := (List.pairwise_cons.1 h).1
    have hfs := (List.pairwise_cons.1 h).2
    simp only [insertRecord]
    split
    · rename_i hlt
      refine List.pairwise_cons.2 ⟨fun x hx => ?_, h⟩
      rcases List.mem_cons.1 hx with rfl | hx
      · exact hlt
      · exact Nat.lt_trans hlt (hk x hx)
    · split
      · exact h
      · rename_i h1 h2
        refine List.pairwise_cons.2 ⟨fun x hx => ?_, ih hfs⟩
        rcases mem_insertRecord.1 hx with rfl | hx
        · exact Nat.lt_of_le_of_ne (Nat.le_of_not_lt h1) (fun e => h2 (FaultRecord.rank_injective e.symm))
        · exact hk x hx

/-! ### Runs of bytes -/

theorem readByte_written {a : Nat} {s : State} {v : Byte} (h : s.buf.read a = some v) : readByte a s = (v, s) := by
  simp [readByte, h]

theorem readByte_unwritten {a : Nat} {s : State} (h : s.buf.read a = none) :
    readByte a s = (Config.freeByte s.freeCount, { s.addFault (.uninitRead a) with freeCount := s.freeCount + 1 }) := by
  simp [readByte, h]

/-- Reading changes nothing but FAULT and the count of free values. -/
theorem readByte_frame (a : Nat) (s : State) :
    (readByte a s).2 = { s with faults := (readByte a s).2.faults, freeCount := (readByte a s).2.freeCount } := by
  unfold readByte
  split <;> rfl

@[simp] theorem readByte_buf (a : Nat) (s : State) : (readByte a s).2.buf = s.buf := by rw [readByte_frame]

/-- The records a read leaves. -/
theorem mem_readByte_faults {a : Nat} {s : State} {f : FaultRecord} :
    f ∈ (readByte a s).2.faults ↔ f ∈ s.faults ∨ (f = .uninitRead a ∧ s.buf.read a = none) := by
  unfold readByte
  split
  · rename_i v h; simp [h]
  · rename_i h
    show f ∈ insertRecord s.faults (.uninitRead a) ↔ _
    rw [mem_insertRecord, h]
    simp
    tauto

theorem memRead_frame (a n : Nat) (s : State) :
    (memRead a n s).2 = { s with faults := (memRead a n s).2.faults, freeCount := (memRead a n s).2.freeCount } := by
  induction n generalizing a s with
  | zero => rfl
  | succ n ih =>
    have h := ih (a + 1) (readByte a s).2
    rw [readByte_frame] at h
    simp only [memRead]
    rw [readByte_frame]
    exact h

@[simp] theorem memRead_buf (a n : Nat) (s : State) : (memRead a n s).2.buf = s.buf := by rw [memRead_frame]

@[simp] theorem memRead_length (a n : Nat) (s : State) : (memRead a n s).1.length = n := by
  induction n generalizing a s with
  | zero => rfl
  | succ n ih => simp [memRead, ih]

/-- The records a run of reads leaves. -/
theorem mem_memRead_faults {a n : Nat} {s : State} {f : FaultRecord} :
    f ∈ (memRead a n s).2.faults ↔
      f ∈ s.faults ∨ ∃ j, j < n ∧ f = .uninitRead (a + j) ∧ s.buf.read (a + j) = none := by
  induction n generalizing a s with
  | zero => simp [memRead]
  | succ n ih =>
    simp only [memRead]
    rw [ih, mem_readByte_faults, readByte_buf]
    constructor
    · rintro ((h | ⟨h1, h2⟩) | ⟨j, hj, h1, h2⟩)
      · exact .inl h
      · exact .inr ⟨0, by omega, by simpa using h1, by simpa using h2⟩
      · exact .inr ⟨j + 1, by omega, by rw [h1]; congr 1; omega, by rw [← h2]; congr 1; omega⟩
    · rintro (h | ⟨j, hj, h1, h2⟩)
      · exact .inl (.inl h)
      · cases j with
        | zero => exact .inl (.inr ⟨by simpa using h1, by simpa using h2⟩)
        | succ j => exact .inr ⟨j, by omega, by rw [h1]; congr 1; omega, by rw [← h2]; congr 1; omega⟩

/-- A run of written bytes is read as written, with no record and no free value. -/
theorem memRead_written {a n : Nat} {s : State} {B : List Byte} (hB : B.length = n)
    (h : ∀ j, (hj : j < n) → s.buf.read (a + j) = some (B[j]'(hB ▸ hj))) : memRead a n s = (B, s) := by
  induction n generalizing a B with
  | zero => simp [memRead, List.length_eq_zero_iff.1 hB]
  | succ n ih =>
    cases B with
    | nil => simp at hB
    | cons v B =>
      have h0 := h 0 (by omega)
      have hs : memRead (a + 1) n s = (B, s) := by
        refine ih (by simpa using hB) fun j hj => ?_
        have := h (j + 1) (by omega)
        simpa [Nat.add_assoc, Nat.add_comm 1 j] using this
      simp only [Nat.add_zero, List.getElem_cons_zero] at h0
      simp only [memRead, readByte_written h0, hs]

theorem memWrite_frame (a : Nat) (B : List Byte) (s : State) :
    memWrite a B s = { s with buf := (memWrite a B s).buf } := by
  induction B generalizing a s with
  | nil => rfl
  | cons v B ih =>
    simp only [memWrite]
    exact ih (a + 1) (writeByte a v s)

/-- What every address reads as after a run of writes. -/
theorem memWrite_read (a : Nat) (B : List Byte) (s : State) (b : Nat) :
    (memWrite a B s).buf.read b = if a ≤ b ∧ b < a + B.length then B[b - a]? else s.buf.read b := by
  induction B generalizing a s with
  | nil =>
    rw [if_neg (by simp)]
    rfl
  | cons v B ih =>
    simp only [memWrite]
    rw [ih]
    by_cases h0 : b = a
    · subst h0
      rw [if_neg (by omega), if_pos (by simp)]
      simp [writeByte, Memory.read_write_same]
    · by_cases h1 : a + 1 ≤ b ∧ b < a + 1 + B.length
      · rw [if_pos h1, if_pos (by simp only [List.length_cons]; omega)]
        have : b - a = b - (a + 1) + 1 := by omega
        simp [this]
      · rw [if_neg h1, if_neg (by simp only [List.length_cons]; omega)]
        exact Memory.read_write_other _ _ h0

theorem memWrite_wf (a : Nat) (B : List Byte) (s : State) (h : s.buf.wf) : (memWrite a B s).buf.wf := by
  induction B generalizing a s with
  | nil => exact h
  | cons v B ih => exact ih (a + 1) (writeByte a v s) (Memory.write_wf a v h)

/-- The cells listed after a run of writes. -/
theorem mem_memWrite {a : Nat} {B : List Byte} {s : State} {x : Host.Cell} (h : x ∈ (memWrite a B s).buf) :
    (a ≤ x.1 ∧ x.1 < a + B.length) ∨ x ∈ s.buf := by
  induction B generalizing a s with
  | nil => exact .inr h
  | cons v B ih =>
    rcases ih h with h | h
    · exact .inl (by simp only [List.length_cons]; omega)
    · rcases Memory.mem_write h with rfl | h
      · exact .inl (by simp)
      · exact .inr h

end Sys2Proof.Machine
end

