-- ==== Sys2Proof/Laws/State.lean ====
section
/-! SUPPORT. What each update of State leaves in each field: one lemma per field per update, true by rfl. -/

namespace Sys2Proof.Machine

/-! ### addFault -/

@[simp] theorem addFault_params (s : State) (f : FaultRecord) : (s.addFault f).params = s.params := rfl
@[simp] theorem addFault_phase (s : State) (f : FaultRecord) : (s.addFault f).phase = s.phase := rfl
@[simp] theorem addFault_eng (s : State) (f : FaultRecord) : (s.addFault f).eng = s.eng := rfl
@[simp] theorem addFault_cmd (s : State) (f : FaultRecord) : (s.addFault f).cmd = s.cmd := rfl
@[simp] theorem addFault_a0 (s : State) (f : FaultRecord) : (s.addFault f).a0 = s.a0 := rfl
@[simp] theorem addFault_a1 (s : State) (f : FaultRecord) : (s.addFault f).a1 = s.a1 := rfl
@[simp] theorem addFault_a2 (s : State) (f : FaultRecord) : (s.addFault f).a2 = s.a2 := rfl
@[simp] theorem addFault_a3 (s : State) (f : FaultRecord) : (s.addFault f).a3 = s.a3 := rfl
@[simp] theorem addFault_status (s : State) (f : FaultRecord) : (s.addFault f).status = s.status := rfl
@[simp] theorem addFault_result (s : State) (f : FaultRecord) : (s.addFault f).result = s.result := rfl
@[simp] theorem addFault_spboxBuilt (s : State) (f : FaultRecord) : (s.addFault f).spboxBuilt = s.spboxBuilt := rfl
@[simp] theorem addFault_spbox (s : State) (f : FaultRecord) : (s.addFault f).spbox = s.spbox := rfl
@[simp] theorem addFault_ctxs (s : State) (f : FaultRecord) : (s.addFault f).ctxs = s.ctxs := rfl
@[simp] theorem addFault_buf (s : State) (f : FaultRecord) : (s.addFault f).buf = s.buf := rfl
@[simp] theorem addFault_faults (s : State) (f : FaultRecord) : (s.addFault f).faults = insertRecord s.faults f := rfl
@[simp] theorem addFault_refused (s : State) (f : FaultRecord) : (s.addFault f).refused = s.refused := rfl
@[simp] theorem addFault_host (s : State) (f : FaultRecord) : (s.addFault f).host = s.host := rfl
@[simp] theorem addFault_hostReads (s : State) (f : FaultRecord) : (s.addFault f).hostReads = s.hostReads := rfl
@[simp] theorem addFault_freeCount (s : State) (f : FaultRecord) : (s.addFault f).freeCount = s.freeCount := rfl

/-! ### writeByte -/

@[simp] theorem writeByte_params (a : Nat) (v : Byte) (s : State) : (writeByte a v s).params = s.params := rfl
@[simp] theorem writeByte_phase (a : Nat) (v : Byte) (s : State) : (writeByte a v s).phase = s.phase := rfl
@[simp] theorem writeByte_eng (a : Nat) (v : Byte) (s : State) : (writeByte a v s).eng = s.eng := rfl
@[simp] theorem writeByte_cmd (a : Nat) (v : Byte) (s : State) : (writeByte a v s).cmd = s.cmd := rfl
@[simp] theorem writeByte_a0 (a : Nat) (v : Byte) (s : State) : (writeByte a v s).a0 = s.a0 := rfl
@[simp] theorem writeByte_a1 (a : Nat) (v : Byte) (s : State) : (writeByte a v s).a1 = s.a1 := rfl
@[simp] theorem writeByte_a2 (a : Nat) (v : Byte) (s : State) : (writeByte a v s).a2 = s.a2 := rfl
@[simp] theorem writeByte_a3 (a : Nat) (v : Byte) (s : State) : (writeByte a v s).a3 = s.a3 := rfl
@[simp] theorem writeByte_status (a : Nat) (v : Byte) (s : State) : (writeByte a v s).status = s.status := rfl
@[simp] theorem writeByte_result (a : Nat) (v : Byte) (s : State) : (writeByte a v s).result = s.result := rfl
@[simp] theorem writeByte_spboxBuilt (a : Nat) (v : Byte) (s : State) :
    (writeByte a v s).spboxBuilt = s.spboxBuilt := rfl
@[simp] theorem writeByte_spbox (a : Nat) (v : Byte) (s : State) : (writeByte a v s).spbox = s.spbox := rfl
@[simp] theorem writeByte_ctxs (a : Nat) (v : Byte) (s : State) : (writeByte a v s).ctxs = s.ctxs := rfl
@[simp] theorem writeByte_buf (a : Nat) (v : Byte) (s : State) : (writeByte a v s).buf = s.buf.write a v := rfl
@[simp] theorem writeByte_faults (a : Nat) (v : Byte) (s : State) : (writeByte a v s).faults = s.faults := rfl
@[simp] theorem writeByte_refused (a : Nat) (v : Byte) (s : State) : (writeByte a v s).refused = s.refused := rfl
@[simp] theorem writeByte_host (a : Nat) (v : Byte) (s : State) : (writeByte a v s).host = s.host := rfl
@[simp] theorem writeByte_hostReads (a : Nat) (v : Byte) (s : State) :
    (writeByte a v s).hostReads = s.hostReads := rfl
@[simp] theorem writeByte_freeCount (a : Nat) (v : Byte) (s : State) :
    (writeByte a v s).freeCount = s.freeCount := rfl

/-! ### setCtx -/

@[simp] theorem setCtx_params (s : State) (c : Nat) (x : Ctx) : (s.setCtx c x).params = s.params := rfl
@[simp] theorem setCtx_phase (s : State) (c : Nat) (x : Ctx) : (s.setCtx c x).phase = s.phase := rfl
@[simp] theorem setCtx_eng (s : State) (c : Nat) (x : Ctx) : (s.setCtx c x).eng = s.eng := rfl
@[simp] theorem setCtx_cmd (s : State) (c : Nat) (x : Ctx) : (s.setCtx c x).cmd = s.cmd := rfl
@[simp] theorem setCtx_a0 (s : State) (c : Nat) (x : Ctx) : (s.setCtx c x).a0 = s.a0 := rfl
@[simp] theorem setCtx_a1 (s : State) (c : Nat) (x : Ctx) : (s.setCtx c x).a1 = s.a1 := rfl
@[simp] theorem setCtx_a2 (s : State) (c : Nat) (x : Ctx) : (s.setCtx c x).a2 = s.a2 := rfl
@[simp] theorem setCtx_a3 (s : State) (c : Nat) (x : Ctx) : (s.setCtx c x).a3 = s.a3 := rfl
@[simp] theorem setCtx_status (s : State) (c : Nat) (x : Ctx) : (s.setCtx c x).status = s.status := rfl
@[simp] theorem setCtx_result (s : State) (c : Nat) (x : Ctx) : (s.setCtx c x).result = s.result := rfl
@[simp] theorem setCtx_spboxBuilt (s : State) (c : Nat) (x : Ctx) : (s.setCtx c x).spboxBuilt = s.spboxBuilt := rfl
@[simp] theorem setCtx_spbox (s : State) (c : Nat) (x : Ctx) : (s.setCtx c x).spbox = s.spbox := rfl
@[simp] theorem setCtx_ctxs (s : State) (c : Nat) (x : Ctx) : (s.setCtx c x).ctxs = s.ctxs.set c x := rfl
@[simp] theorem setCtx_buf (s : State) (c : Nat) (x : Ctx) : (s.setCtx c x).buf = s.buf := rfl
@[simp] theorem setCtx_faults (s : State) (c : Nat) (x : Ctx) : (s.setCtx c x).faults = s.faults := rfl
@[simp] theorem setCtx_refused (s : State) (c : Nat) (x : Ctx) : (s.setCtx c x).refused = s.refused := rfl
@[simp] theorem setCtx_host (s : State) (c : Nat) (x : Ctx) : (s.setCtx c x).host = s.host := rfl
@[simp] theorem setCtx_hostReads (s : State) (c : Nat) (x : Ctx) : (s.setCtx c x).hostReads = s.hostReads := rfl
@[simp] theorem setCtx_freeCount (s : State) (c : Nat) (x : Ctx) : (s.setCtx c x).freeCount = s.freeCount := rfl

/-! ### setHalves -/

@[simp] theorem setHalves_params (s : State) (h : Word × Word) : (s.setHalves h).params = s.params := rfl
@[simp] theorem setHalves_phase (s : State) (h : Word × Word) : (s.setHalves h).phase = s.phase := rfl
@[simp] theorem setHalves_eng (s : State) (h : Word × Word) :
    (s.setHalves h).eng = { s.eng with l := h.1, r := h.2 } := rfl
@[simp] theorem setHalves_cmd (s : State) (h : Word × Word) : (s.setHalves h).cmd = s.cmd := rfl
@[simp] theorem setHalves_a0 (s : State) (h : Word × Word) : (s.setHalves h).a0 = s.a0 := rfl
@[simp] theorem setHalves_a1 (s : State) (h : Word × Word) : (s.setHalves h).a1 = s.a1 := rfl
@[simp] theorem setHalves_a2 (s : State) (h : Word × Word) : (s.setHalves h).a2 = s.a2 := rfl
@[simp] theorem setHalves_a3 (s : State) (h : Word × Word) : (s.setHalves h).a3 = s.a3 := rfl
@[simp] theorem setHalves_status (s : State) (h : Word × Word) : (s.setHalves h).status = s.status := rfl
@[simp] theorem setHalves_result (s : State) (h : Word × Word) : (s.setHalves h).result = s.result := rfl
@[simp] theorem setHalves_spboxBuilt (s : State) (h : Word × Word) : (s.setHalves h).spboxBuilt = s.spboxBuilt := rfl
@[simp] theorem setHalves_spbox (s : State) (h : Word × Word) : (s.setHalves h).spbox = s.spbox := rfl
@[simp] theorem setHalves_ctxs (s : State) (h : Word × Word) : (s.setHalves h).ctxs = s.ctxs := rfl
@[simp] theorem setHalves_buf (s : State) (h : Word × Word) : (s.setHalves h).buf = s.buf := rfl
@[simp] theorem setHalves_faults (s : State) (h : Word × Word) : (s.setHalves h).faults = s.faults := rfl
@[simp] theorem setHalves_refused (s : State) (h : Word × Word) : (s.setHalves h).refused = s.refused := rfl
@[simp] theorem setHalves_host (s : State) (h : Word × Word) : (s.setHalves h).host = s.host := rfl
@[simp] theorem setHalves_hostReads (s : State) (h : Word × Word) : (s.setHalves h).hostReads = s.hostReads := rfl
@[simp] theorem setHalves_freeCount (s : State) (h : Word × Word) : (s.setHalves h).freeCount = s.freeCount := rfl

/-! ### setKb -/

@[simp] theorem setKb_params (s : State) (k : KeyWords) : (s.setKb k).params = s.params := rfl
@[simp] theorem setKb_phase (s : State) (k : KeyWords) : (s.setKb k).phase = s.phase := rfl
@[simp] theorem setKb_eng (s : State) (k : KeyWords) : (s.setKb k).eng = { s.eng with kb := k } := rfl
@[simp] theorem setKb_cmd (s : State) (k : KeyWords) : (s.setKb k).cmd = s.cmd := rfl
@[simp] theorem setKb_a0 (s : State) (k : KeyWords) : (s.setKb k).a0 = s.a0 := rfl
@[simp] theorem setKb_a1 (s : State) (k : KeyWords) : (s.setKb k).a1 = s.a1 := rfl
@[simp] theorem setKb_a2 (s : State) (k : KeyWords) : (s.setKb k).a2 = s.a2 := rfl
@[simp] theorem setKb_a3 (s : State) (k : KeyWords) : (s.setKb k).a3 = s.a3 := rfl
@[simp] theorem setKb_status (s : State) (k : KeyWords) : (s.setKb k).status = s.status := rfl
@[simp] theorem setKb_result (s : State) (k : KeyWords) : (s.setKb k).result = s.result := rfl
@[simp] theorem setKb_spboxBuilt (s : State) (k : KeyWords) : (s.setKb k).spboxBuilt = s.spboxBuilt := rfl
@[simp] theorem setKb_spbox (s : State) (k : KeyWords) : (s.setKb k).spbox = s.spbox := rfl
@[simp] theorem setKb_ctxs (s : State) (k : KeyWords) : (s.setKb k).ctxs = s.ctxs := rfl
@[simp] theorem setKb_buf (s : State) (k : KeyWords) : (s.setKb k).buf = s.buf := rfl
@[simp] theorem setKb_faults (s : State) (k : KeyWords) : (s.setKb k).faults = s.faults := rfl
@[simp] theorem setKb_refused (s : State) (k : KeyWords) : (s.setKb k).refused = s.refused := rfl
@[simp] theorem setKb_host (s : State) (k : KeyWords) : (s.setKb k).host = s.host := rfl
@[simp] theorem setKb_hostReads (s : State) (k : KeyWords) : (s.setKb k).hostReads = s.hostReads := rfl
@[simp] theorem setKb_freeCount (s : State) (k : KeyWords) : (s.setKb k).freeCount = s.freeCount := rfl

/-! ### spboxBuild -/

@[simp] theorem spboxBuild_params (s : State) : (spboxBuild s).params = s.params := rfl
@[simp] theorem spboxBuild_phase (s : State) : (spboxBuild s).phase = s.phase := rfl
@[simp] theorem spboxBuild_eng (s : State) : (spboxBuild s).eng = s.eng := rfl
@[simp] theorem spboxBuild_cmd (s : State) : (spboxBuild s).cmd = s.cmd := rfl
@[simp] theorem spboxBuild_a0 (s : State) : (spboxBuild s).a0 = s.a0 := rfl
@[simp] theorem spboxBuild_a1 (s : State) : (spboxBuild s).a1 = s.a1 := rfl
@[simp] theorem spboxBuild_a2 (s : State) : (spboxBuild s).a2 = s.a2 := rfl
@[simp] theorem spboxBuild_a3 (s : State) : (spboxBuild s).a3 = s.a3 := rfl
@[simp] theorem spboxBuild_status (s : State) : (spboxBuild s).status = s.status := rfl
@[simp] theorem spboxBuild_result (s : State) : (spboxBuild s).result = s.result := rfl
@[simp] theorem spboxBuild_spboxBuilt (s : State) : (spboxBuild s).spboxBuilt = true := rfl
@[simp] theorem spboxBuild_spbox (s : State) : (spboxBuild s).spbox = SpBox.built := rfl
@[simp] theorem spboxBuild_ctxs (s : State) : (spboxBuild s).ctxs = s.ctxs := rfl
@[simp] theorem spboxBuild_buf (s : State) : (spboxBuild s).buf = s.buf := rfl
@[simp] theorem spboxBuild_faults (s : State) : (spboxBuild s).faults = s.faults := rfl
@[simp] theorem spboxBuild_refused (s : State) : (spboxBuild s).refused = s.refused := rfl
@[simp] theorem spboxBuild_host (s : State) : (spboxBuild s).host = s.host := rfl
@[simp] theorem spboxBuild_hostReads (s : State) : (spboxBuild s).hostReads = s.hostReads := rfl
@[simp] theorem spboxBuild_freeCount (s : State) : (spboxBuild s).freeCount = s.freeCount := rfl

/-! ### complete -/

@[simp] theorem complete_params (st : Status) (s : State) : (complete st s).params = s.params := rfl
@[simp] theorem complete_phase (st : Status) (s : State) : (complete st s).phase = .idle := rfl
@[simp] theorem complete_eng (st : Status) (s : State) : (complete st s).eng = Engine.free s.freeCount := rfl
@[simp] theorem complete_cmd (st : Status) (s : State) : (complete st s).cmd = s.cmd := rfl
@[simp] theorem complete_a0 (st : Status) (s : State) : (complete st s).a0 = s.a0 := rfl
@[simp] theorem complete_a1 (st : Status) (s : State) : (complete st s).a1 = s.a1 := rfl
@[simp] theorem complete_a2 (st : Status) (s : State) : (complete st s).a2 = s.a2 := rfl
@[simp] theorem complete_a3 (st : Status) (s : State) : (complete st s).a3 = s.a3 := rfl
@[simp] theorem complete_status (st : Status) (s : State) : (complete st s).status = st := rfl
@[simp] theorem complete_result (st : Status) (s : State) : (complete st s).result = s.result := rfl
@[simp] theorem complete_spboxBuilt (st : Status) (s : State) : (complete st s).spboxBuilt = s.spboxBuilt := rfl
@[simp] theorem complete_spbox (st : Status) (s : State) : (complete st s).spbox = s.spbox := rfl
@[simp] theorem complete_ctxs (st : Status) (s : State) : (complete st s).ctxs = s.ctxs := rfl
@[simp] theorem complete_buf (st : Status) (s : State) : (complete st s).buf = s.buf := rfl
@[simp] theorem complete_faults (st : Status) (s : State) : (complete st s).faults = s.faults := rfl
@[simp] theorem complete_refused (st : Status) (s : State) : (complete st s).refused = s.refused := rfl
@[simp] theorem complete_host (st : Status) (s : State) : (complete st s).host = s.host := rfl
@[simp] theorem complete_hostReads (st : Status) (s : State) : (complete st s).hostReads = s.hostReads := rfl
@[simp] theorem complete_freeCount (st : Status) (s : State) : (complete st s).freeCount = s.freeCount + 1 := rfl

/-! ### completeOk -/

@[simp] theorem completeOk_params (s : State) : (completeOk s).params = s.params := rfl
@[simp] theorem completeOk_phase (s : State) : (completeOk s).phase = .idle := rfl
@[simp] theorem completeOk_eng (s : State) : (completeOk s).eng = Engine.free s.freeCount := rfl
@[simp] theorem completeOk_cmd (s : State) : (completeOk s).cmd = s.cmd := rfl
@[simp] theorem completeOk_a0 (s : State) : (completeOk s).a0 = s.a0 := rfl
@[simp] theorem completeOk_a1 (s : State) : (completeOk s).a1 = s.a1 := rfl
@[simp] theorem completeOk_a2 (s : State) : (completeOk s).a2 = s.a2 := rfl
@[simp] theorem completeOk_a3 (s : State) : (completeOk s).a3 = s.a3 := rfl
@[simp] theorem completeOk_status (s : State) :
    (completeOk s).status = { s.status with done := true, err := false, errCode := 0 } := rfl
@[simp] theorem completeOk_result (s : State) : (completeOk s).result = s.result := rfl
@[simp] theorem completeOk_spboxBuilt (s : State) : (completeOk s).spboxBuilt = s.spboxBuilt := rfl
@[simp] theorem completeOk_spbox (s : State) : (completeOk s).spbox = s.spbox := rfl
@[simp] theorem completeOk_ctxs (s : State) : (completeOk s).ctxs = s.ctxs := rfl
@[simp] theorem completeOk_buf (s : State) : (completeOk s).buf = s.buf := rfl
@[simp] theorem completeOk_faults (s : State) : (completeOk s).faults = s.faults := rfl
@[simp] theorem completeOk_refused (s : State) : (completeOk s).refused = s.refused := rfl
@[simp] theorem completeOk_host (s : State) : (completeOk s).host = s.host := rfl
@[simp] theorem completeOk_hostReads (s : State) : (completeOk s).hostReads = s.hostReads := rfl
@[simp] theorem completeOk_freeCount (s : State) : (completeOk s).freeCount = s.freeCount + 1 := rfl

/-! ### completeError -/

@[simp] theorem completeError_params (e : ErrorCode) (s : State) : (completeError e s).params = s.params := rfl
@[simp] theorem completeError_phase (e : ErrorCode) (s : State) : (completeError e s).phase = .idle := rfl
@[simp] theorem completeError_eng (e : ErrorCode) (s : State) :
    (completeError e s).eng = Engine.free s.freeCount := rfl
@[simp] theorem completeError_cmd (e : ErrorCode) (s : State) : (completeError e s).cmd = s.cmd := rfl
@[simp] theorem completeError_a0 (e : ErrorCode) (s : State) : (completeError e s).a0 = s.a0 := rfl
@[simp] theorem completeError_a1 (e : ErrorCode) (s : State) : (completeError e s).a1 = s.a1 := rfl
@[simp] theorem completeError_a2 (e : ErrorCode) (s : State) : (completeError e s).a2 = s.a2 := rfl
@[simp] theorem completeError_a3 (e : ErrorCode) (s : State) : (completeError e s).a3 = s.a3 := rfl
@[simp] theorem completeError_status (e : ErrorCode) (s : State) :
    (completeError e s).status = { s.status with done := true, err := true, errCode := e.number } := rfl
@[simp] theorem completeError_result (e : ErrorCode) (s : State) : (completeError e s).result = s.result := rfl
@[simp] theorem completeError_spboxBuilt (e : ErrorCode) (s : State) :
    (completeError e s).spboxBuilt = s.spboxBuilt := rfl
@[simp] theorem completeError_spbox (e : ErrorCode) (s : State) : (completeError e s).spbox = s.spbox := rfl
@[simp] theorem completeError_ctxs (e : ErrorCode) (s : State) : (completeError e s).ctxs = s.ctxs := rfl
@[simp] theorem completeError_buf (e : ErrorCode) (s : State) : (completeError e s).buf = s.buf := rfl
@[simp] theorem completeError_faults (e : ErrorCode) (s : State) : (completeError e s).faults = s.faults := rfl
@[simp] theorem completeError_refused (e : ErrorCode) (s : State) : (completeError e s).refused = s.refused := rfl
@[simp] theorem completeError_host (e : ErrorCode) (s : State) : (completeError e s).host = s.host := rfl
@[simp] theorem completeError_hostReads (e : ErrorCode) (s : State) :
    (completeError e s).hostReads = s.hostReads := rfl
@[simp] theorem completeError_freeCount (e : ErrorCode) (s : State) :
    (completeError e s).freeCount = s.freeCount + 1 := rfl

/-! ### issue -/

@[simp] theorem issue_params (v : Word) (s : State) : (issue v s).params = s.params := rfl
@[simp] theorem issue_phase (v : Word) (s : State) : (issue v s).phase = .busy := rfl
@[simp] theorem issue_eng (v : Word) (s : State) :
    (issue v s).eng = { s.eng with lcmd := v, la0 := s.a0, la1 := s.a1, la2 := s.a2, la3 := s.a3 } := rfl
@[simp] theorem issue_cmd (v : Word) (s : State) : (issue v s).cmd = v := rfl
@[simp] theorem issue_a0 (v : Word) (s : State) : (issue v s).a0 = s.a0 := rfl
@[simp] theorem issue_a1 (v : Word) (s : State) : (issue v s).a1 = s.a1 := rfl
@[simp] theorem issue_a2 (v : Word) (s : State) : (issue v s).a2 = s.a2 := rfl
@[simp] theorem issue_a3 (v : Word) (s : State) : (issue v s).a3 = s.a3 := rfl
@[simp] theorem issue_status (v : Word) (s : State) : (issue v s).status = s.status.issued := rfl
@[simp] theorem issue_result (v : Word) (s : State) : (issue v s).result = s.result := rfl
@[simp] theorem issue_spboxBuilt (v : Word) (s : State) : (issue v s).spboxBuilt = s.spboxBuilt := rfl
@[simp] theorem issue_spbox (v : Word) (s : State) : (issue v s).spbox = s.spbox := rfl
@[simp] theorem issue_ctxs (v : Word) (s : State) : (issue v s).ctxs = s.ctxs := rfl
@[simp] theorem issue_buf (v : Word) (s : State) : (issue v s).buf = s.buf := rfl
@[simp] theorem issue_faults (v : Word) (s : State) : (issue v s).faults = s.faults := rfl
@[simp] theorem issue_refused (v : Word) (s : State) : (issue v s).refused = s.refused := rfl
@[simp] theorem issue_host (v : Word) (s : State) : (issue v s).host = s.host := rfl
@[simp] theorem issue_hostReads (v : Word) (s : State) : (issue v s).hostReads = s.hostReads := rfl
@[simp] theorem issue_freeCount (v : Word) (s : State) : (issue v s).freeCount = s.freeCount := rfl

/-! ### refuse -/

@[simp] theorem refuse_params (s : State) : (refuse s).params = s.params := rfl
@[simp] theorem refuse_phase (s : State) : (refuse s).phase = s.phase := rfl
@[simp] theorem refuse_eng (s : State) : (refuse s).eng = s.eng := rfl
@[simp] theorem refuse_cmd (s : State) : (refuse s).cmd = s.cmd := rfl
@[simp] theorem refuse_a0 (s : State) : (refuse s).a0 = s.a0 := rfl
@[simp] theorem refuse_a1 (s : State) : (refuse s).a1 = s.a1 := rfl
@[simp] theorem refuse_a2 (s : State) : (refuse s).a2 = s.a2 := rfl
@[simp] theorem refuse_a3 (s : State) : (refuse s).a3 = s.a3 := rfl
@[simp] theorem refuse_status (s : State) : (refuse s).status = s.status := rfl
@[simp] theorem refuse_result (s : State) : (refuse s).result = s.result := rfl
@[simp] theorem refuse_spboxBuilt (s : State) : (refuse s).spboxBuilt = s.spboxBuilt := rfl
@[simp] theorem refuse_spbox (s : State) : (refuse s).spbox = s.spbox := rfl
@[simp] theorem refuse_ctxs (s : State) : (refuse s).ctxs = s.ctxs := rfl
@[simp] theorem refuse_buf (s : State) : (refuse s).buf = s.buf := rfl
@[simp] theorem refuse_faults (s : State) : (refuse s).faults = s.faults := rfl
@[simp] theorem refuse_refused (s : State) : (refuse s).refused = true := rfl
@[simp] theorem refuse_host (s : State) : (refuse s).host = s.host := rfl
@[simp] theorem refuse_hostReads (s : State) : (refuse s).hostReads = s.hostReads := rfl
@[simp] theorem refuse_freeCount (s : State) : (refuse s).freeCount = s.freeCount := rfl

/-! ### logRead -/

@[simp] theorem logRead_params (r : HostRead) (s : State) : (logRead r s).params = s.params := rfl
@[simp] theorem logRead_phase (r : HostRead) (s : State) : (logRead r s).phase = s.phase := rfl
@[simp] theorem logRead_eng (r : HostRead) (s : State) : (logRead r s).eng = s.eng := rfl
@[simp] theorem logRead_cmd (r : HostRead) (s : State) : (logRead r s).cmd = s.cmd := rfl
@[simp] theorem logRead_a0 (r : HostRead) (s : State) : (logRead r s).a0 = s.a0 := rfl
@[simp] theorem logRead_a1 (r : HostRead) (s : State) : (logRead r s).a1 = s.a1 := rfl
@[simp] theorem logRead_a2 (r : HostRead) (s : State) : (logRead r s).a2 = s.a2 := rfl
@[simp] theorem logRead_a3 (r : HostRead) (s : State) : (logRead r s).a3 = s.a3 := rfl
@[simp] theorem logRead_status (r : HostRead) (s : State) : (logRead r s).status = s.status := rfl
@[simp] theorem logRead_result (r : HostRead) (s : State) : (logRead r s).result = s.result := rfl
@[simp] theorem logRead_spboxBuilt (r : HostRead) (s : State) : (logRead r s).spboxBuilt = s.spboxBuilt := rfl
@[simp] theorem logRead_spbox (r : HostRead) (s : State) : (logRead r s).spbox = s.spbox := rfl
@[simp] theorem logRead_ctxs (r : HostRead) (s : State) : (logRead r s).ctxs = s.ctxs := rfl
@[simp] theorem logRead_buf (r : HostRead) (s : State) : (logRead r s).buf = s.buf := rfl
@[simp] theorem logRead_faults (r : HostRead) (s : State) : (logRead r s).faults = s.faults := rfl
@[simp] theorem logRead_refused (r : HostRead) (s : State) : (logRead r s).refused = s.refused := rfl
@[simp] theorem logRead_host (r : HostRead) (s : State) : (logRead r s).host = s.host := rfl
@[simp] theorem logRead_hostReads (r : HostRead) (s : State) : (logRead r s).hostReads = s.hostReads ++ [r] := rfl
@[simp] theorem logRead_freeCount (r : HostRead) (s : State) : (logRead r s).freeCount = s.freeCount := rfl

/-! ### hostReset -/

@[simp] theorem hostReset_params (s : State) : (hostReset s).params = s.params := rfl
@[simp] theorem hostReset_phase (s : State) : (hostReset s).phase = (State.resetWith s.params).phase := rfl
@[simp] theorem hostReset_eng (s : State) : (hostReset s).eng = (State.resetWith s.params).eng := rfl
@[simp] theorem hostReset_cmd (s : State) : (hostReset s).cmd = (State.resetWith s.params).cmd := rfl
@[simp] theorem hostReset_a0 (s : State) : (hostReset s).a0 = (State.resetWith s.params).a0 := rfl
@[simp] theorem hostReset_a1 (s : State) : (hostReset s).a1 = (State.resetWith s.params).a1 := rfl
@[simp] theorem hostReset_a2 (s : State) : (hostReset s).a2 = (State.resetWith s.params).a2 := rfl
@[simp] theorem hostReset_a3 (s : State) : (hostReset s).a3 = (State.resetWith s.params).a3 := rfl
@[simp] theorem hostReset_status (s : State) : (hostReset s).status = (State.resetWith s.params).status := rfl
@[simp] theorem hostReset_result (s : State) : (hostReset s).result = (State.resetWith s.params).result := rfl
@[simp] theorem hostReset_spboxBuilt (s : State) : (hostReset s).spboxBuilt = (State.resetWith s.params).spboxBuilt := rfl
@[simp] theorem hostReset_spbox (s : State) : (hostReset s).spbox = (State.resetWith s.params).spbox := rfl
@[simp] theorem hostReset_ctxs (s : State) : (hostReset s).ctxs = (State.resetWith s.params).ctxs := rfl
@[simp] theorem hostReset_buf (s : State) : (hostReset s).buf = (State.resetWith s.params).buf := rfl
@[simp] theorem hostReset_faults (s : State) : (hostReset s).faults = (State.resetWith s.params).faults := rfl
@[simp] theorem hostReset_refused (s : State) : (hostReset s).refused = (State.resetWith s.params).refused := rfl
@[simp] theorem hostReset_host (s : State) : (hostReset s).host = s.host := rfl
@[simp] theorem hostReset_hostReads (s : State) : (hostReset s).hostReads = s.hostReads := rfl
@[simp] theorem hostReset_freeCount (s : State) : (hostReset s).freeCount = s.freeCount := rfl

end Sys2Proof.Machine
end

