-- ==== Sys2Proof/Laws/Frames.lean ====
section
/-! SUPPORT. What each shared operation can do: the checks and completion of a command, the context slots, the block
transforms and the key-schedule engine. -/

namespace Sys2Proof.Machine

/-! ### Checks and completion -/

theorem firstError_eq_none {cs : List (Bool × ErrorCode)} : firstError cs = none ↔ ∀ x ∈ cs, x.1 = false := by
  induction cs with
  | nil => simp [firstError]
  | cons x cs ih =>
    obtain ⟨b, e⟩ := x
    cases b <;> simp [firstError, ih]

theorem runCommand_ok {cs : List (Bool × ErrorCode)} (f : State → State) (s : State) (h : ∀ x ∈ cs, x.1 = false) :
    runCommand cs f s = .next (completeOk (f s)) := by
  simp [runCommand, firstError_eq_none.2 h]

/-- The checks of a command as one Boolean fact. -/
theorem checks_pass {cs : List (Bool × ErrorCode)} (h : cs.all (fun x => !x.1) = true) : ∀ x ∈ cs, x.1 = false := by
  simpa using h

theorem runCommand_error {cs : List (Bool × ErrorCode)} {e : ErrorCode} (f : State → State) (s : State)
    (h : firstError cs = some e) : runCommand cs f s = .next (completeError e s) := by
  simp [runCommand, h]

/-- Everything a command can do. -/
theorem runCommand_cases {cs : List (Bool × ErrorCode)} {f : State → State} {s t : State}
    (h : runCommand cs f s = .next t) :
    (∃ e, firstError cs = some e ∧ t = completeError e s) ∨
      ((∀ x ∈ cs, x.1 = false) ∧ t = completeOk (f s)) := by
  unfold runCommand at h
  split at h
  · rename_i e he
    cases h
    exact .inl ⟨e, he, rfl⟩
  · rename_i he
    cases h
    exact .inr ⟨firstError_eq_none.1 he, rfl⟩

/-- A command always answers a next state. -/
theorem runCommand_next (cs : List (Bool × ErrorCode)) (f : State → State) (s : State) :
    ∃ t, runCommand cs f s = .next t := by
  unfold runCommand
  split <;> exact ⟨_, rfl⟩

/-! ### Context slots -/

theorem ctxAt_setCtx_same {s : State} {c : Nat} (x : Ctx) (h : c < s.ctxs.length) : (s.setCtx c x).ctxAt c = x := by
  simp [State.ctxAt, State.setCtx, List.getD, h]

theorem ctxAt_setCtx_other {s : State} {c d : Nat} (x : Ctx) (h : d ≠ c) : (s.setCtx c x).ctxAt d = s.ctxAt d := by
  simp [State.ctxAt, State.setCtx, List.getD, List.getElem?_set_ne h.symm]

/-- A slot read depends on the slots and the parameters alone. -/
theorem ctxAt_congr {s t : State} (hc : t.ctxs = s.ctxs) (hp : t.params = s.params) (c : Nat) :
    t.ctxAt c = s.ctxAt c := by
  simp [State.ctxAt, hc, hp]

/-- Completion touches no slot. -/
@[simp] theorem completeOk_ctxAt (s : State) (c : Nat) : (completeOk s).ctxAt c = s.ctxAt c := ctxAt_congr rfl rfl c

theorem ctxAt_mem {s : State} {c : Nat} (h : c < s.ctxs.length) : s.ctxAt c ∈ s.ctxs := by
  simp [State.ctxAt, List.getD, h]

@[simp] theorem subkey_zeroSched (p : Params) (v : Bool) (n : BitVec 16) (r : BitVec 21) (k : Nat) :
    Ctx.subkey { valid := v, size := n, rounds := r, sched := zeroSched p } k = Subkey.zero := by
  simp only [Ctx.subkey, zeroSched, List.getD_eq_getElem?_getD, List.getElem?_replicate]
  split <;> rfl

theorem subkey_setSubkey_same {x : Ctx} {k : Nat} (sk : Subkey) (h : k < x.sched.length) :
    (x.setSubkey k sk).subkey k = sk := by
  simp [Ctx.subkey, Ctx.setSubkey, List.getD, h]

theorem subkey_setSubkey_other {x : Ctx} {k n : Nat} (sk : Subkey) (h : n ≠ k) :
    (x.setSubkey k sk).subkey n = x.subkey n := by
  simp [Ctx.subkey, Ctx.setSubkey, List.getD, List.getElem?_set_ne h.symm]

/-! ### Block operations -/

/-- The output of a block operation is a function of the table, the subkeys and the block. -/
theorem runBlock_fst (pairs : List (Subkey × Subkey)) (B : List Byte) (s : State) :
    (runBlock pairs B s).1 = blockBytes (feistel s.spbox pairs (blockHalves B)) := by
  simp only [runBlock, noteUnbuilt]
  split <;> rfl

theorem runBlock_frame (pairs : List (Subkey × Subkey)) (B : List Byte) (s : State) :
    (runBlock pairs B s).2 =
      { s with eng := (runBlock pairs B s).2.eng, faults := (runBlock pairs B s).2.faults } := by
  simp only [runBlock, noteUnbuilt]
  split <;> rfl

/-- Over a built table a block operation leaves no record. -/
theorem runBlock_snd_of_built {pairs : List (Subkey × Subkey)} {B : List Byte} {s : State}
    (h : s.spboxBuilt = true) :
    (runBlock pairs B s).2 = s.setHalves (feistel s.spbox pairs (blockHalves B)) := by
  simp [runBlock, noteUnbuilt, h]
  rfl

@[simp] theorem unbe32_length (w : Word) : (unbe32 w).length = 4 := rfl

@[simp] theorem blockBytes_length (h : Word × Word) : (blockBytes h).length = 8 := rfl

/-- A transform of the shape ENCRYPT, DECRYPT and the block loop use. -/
theorem transformBlock_frame (pairs : State → List (Subkey × Subkey)) (src dst : Nat) (s : State) :
    transformBlock (fun B s => runBlock (pairs s) B s) src dst s =
      { s with
        eng := (transformBlock (fun B s => runBlock (pairs s) B s) src dst s).eng
        buf := (transformBlock (fun B s => runBlock (pairs s) B s) src dst s).buf
        faults := (transformBlock (fun B s => runBlock (pairs s) B s) src dst s).faults
        freeCount := (transformBlock (fun B s => runBlock (pairs s) B s) src dst s).freeCount } := by
  simp only [transformBlock]
  rw [memWrite_frame, runBlock_frame, memRead_frame]

theorem encBlock_eq (c : Nat) : encBlock c = fun B s => runBlock (s.ctxAt c).encPairs B s := rfl

theorem decBlock_eq (c : Nat) : decBlock c = fun B s => runBlock (s.ctxAt c).decPairs B s := rfl

theorem transform_enc_frame (c src dst : Nat) (s : State) :
    transformBlock (encBlock c) src dst s =
      { s with
        eng := (transformBlock (encBlock c) src dst s).eng
        buf := (transformBlock (encBlock c) src dst s).buf
        faults := (transformBlock (encBlock c) src dst s).faults
        freeCount := (transformBlock (encBlock c) src dst s).freeCount } := by
  rw [encBlock_eq]; exact transformBlock_frame (fun s => (s.ctxAt c).encPairs) src dst s

theorem transform_dec_frame (c src dst : Nat) (s : State) :
    transformBlock (decBlock c) src dst s =
      { s with
        eng := (transformBlock (decBlock c) src dst s).eng
        buf := (transformBlock (decBlock c) src dst s).buf
        faults := (transformBlock (decBlock c) src dst s).faults
        freeCount := (transformBlock (decBlock c) src dst s).freeCount } := by
  rw [decBlock_eq]; exact transformBlock_frame (fun s => (s.ctxAt c).decPairs) src dst s

theorem decryptBlocks_frame (c src dst n : Nat) (s : State) :
    decryptBlocks c src dst n s =
      { s with
        eng := (decryptBlocks c src dst n s).eng
        buf := (decryptBlocks c src dst n s).buf
        faults := (decryptBlocks c src dst n s).faults
        freeCount := (decryptBlocks c src dst n s).freeCount } := by
  induction n generalizing src dst s with
  | zero => rfl
  | succ n ih =>
    have h := ih (src + 8) (dst + 8) (transformBlock (decBlock c) src dst s)
    rw [transform_dec_frame] at h
    simp only [decryptBlocks]
    rw [transform_dec_frame]
    exact h

theorem copyTail_frame (src dst n : Nat) (s : State) :
    copyTail src dst n s =
      { s with
        buf := (copyTail src dst n s).buf
        faults := (copyTail src dst n s).faults
        freeCount := (copyTail src dst n s).freeCount } := by
  induction n generalizing src dst s with
  | zero => rfl
  | succ n ih =>
    have h := ih (src + 1) (dst + 1) (writeByte dst (readByte src s).1 (readByte src s).2)
    rw [readByte_frame] at h
    simp only [copyTail]
    rw [readByte_frame]
    exact h

/-- What a block transform over a built table does to BUF and FAULT. -/
theorem transformBlock_spec {pairs : State → List (Subkey × Subkey)} {src dst : Nat} {s : State}
    (h : s.spboxBuilt = true) :
    ∃ O : List Byte, O.length = 8 ∧
      (transformBlock (fun B s => runBlock (pairs s) B s) src dst s).buf = (memWrite dst O s).buf ∧
      (transformBlock (fun B s => runBlock (pairs s) B s) src dst s).faults = (memRead src 8 s).2.faults ∧
      O = blockBytes (feistel s.spbox (pairs (memRead src 8 s).2) (blockHalves (memRead src 8 s).1)) := by
  have hb : (memRead src 8 s).2.spboxBuilt = true := by rw [memRead_frame]; exact h
  have hx : (memRead src 8 s).2.spbox = s.spbox := by rw [memRead_frame]
  have hbuf : ∀ (O : List Byte) (t : State), t.buf = s.buf → (memWrite dst O t).buf = (memWrite dst O s).buf := by
    intro O
    induction O generalizing dst s with
    | nil => intro t ht; exact ht
    | cons v O ih =>
      intro t ht
      simp only [memWrite]
      refine ih (dst := dst + 1) (s := writeByte dst v s) h ?_ ?_ (writeByte dst v t) (by simp [writeByte, ht])
      · rw [memRead_frame]; exact h
      · rw [memRead_frame]
  refine ⟨_, blockBytes_length _, ?_, ?_, rfl⟩
  · simp only [transformBlock, runBlock_fst, hx]
    exact hbuf _ _ (by rw [runBlock_snd_of_built hb]; simp)
  · simp only [transformBlock]
    rw [memWrite_frame, runBlock_snd_of_built hb]
    simp

/-! ### The key-schedule engine -/

/-- What the key-schedule engine can change: the engine's registers and the schedule entries of one slot. -/
structure SchedOnly (c : Nat) (s t : State) : Prop where
  frame : t = { s with eng := t.eng, ctxs := t.ctxs }
  count : t.ctxs.length = s.ctxs.length
  other : ∀ d, d ≠ c → t.ctxAt d = s.ctxAt d
  slot : t.ctxAt c = { s.ctxAt c with sched := (t.ctxAt c).sched }
  storage : (t.ctxAt c).sched.length = (s.ctxAt c).sched.length

theorem SchedOnly.refl (c : Nat) (s : State) : SchedOnly c s s := ⟨rfl, rfl, fun _ _ => rfl, rfl, rfl⟩

theorem SchedOnly.trans {c : Nat} {s t u : State} (h : SchedOnly c s t) (g : SchedOnly c t u) : SchedOnly c s u where
  frame := by rw [g.frame, h.frame]
  count := g.count.trans h.count
  other := fun d hd => (g.other d hd).trans (h.other d hd)
  slot := by rw [g.slot, h.slot]
  storage := g.storage.trans h.storage

theorem SchedOnly.setKb (c : Nat) (k : KeyWords) (s : State) : SchedOnly c s (s.setKb k) :=
  ⟨rfl, rfl, fun _ _ => rfl, rfl, rfl⟩

theorem SchedOnly.scheduleRound (c n : Nat) (ro : Fin 16) (s : State) (r : Nat) :
    SchedOnly c s (scheduleRound c n ro s r) := by
  refine ⟨rfl, by simp [Machine.scheduleRound], fun d hd => ?_, ?_, ?_⟩
  · exact ctxAt_setCtx_other _ hd
  all_goals
    by_cases h : c < s.ctxs.length
    · rw [Machine.scheduleRound, ctxAt_setCtx_same _ (by simpa using h)]
      simp [Ctx.setSubkey]
    · have : (Machine.scheduleRound c n ro s r).ctxAt c = s.ctxAt c := by
        simp [Machine.scheduleRound, State.ctxAt, List.getD, h]
      rw [this]

theorem SchedOnly.foldl {c : Nat} {f : State → Nat → State} (hf : ∀ s r, SchedOnly c s (f s r)) (l : List Nat)
    (s : State) : SchedOnly c s (l.foldl f s) := by
  induction l generalizing s with
  | nil => exact .refl c s
  | cons r l ih => exact (hf s r).trans (ih (f s r))

theorem scheduleBuild_only (c n : Nat) (ro : Fin 16) (s : State) : SchedOnly c s (scheduleBuild c n ro s) :=
  .foldl (.scheduleRound c n ro) _ s

/-- SETKEY's derivation changes nothing but the engine's registers and that slot's schedule. -/
theorem deriveSchedule_only (c : Nat) (key : List Byte) (s : State) : SchedOnly c s (deriveSchedule c key s) := by
  unfold deriveSchedule
  split
  · exact (SchedOnly.setKb c _ s).trans (scheduleBuild_only ..)
  · exact .foldl (fun s i => ((SchedOnly.setKb c _ s).trans (scheduleBuild_only ..)).trans
      (scheduleBuild_only ..)) _ s

end Sys2Proof.Machine
end

