-- ==== Sys2Proof/Laws/KeySchedule.lean ====
section
/-! SUPPORT. What the steps of the key-schedule engine do to the working words and to the slot they fill
(43_key_schedule.md R192, R193, R196). -/

namespace Sys2Proof.Machine

/-! ### Accessors -/

theorem KeyWords.get_set (k : KeyWords) (w v : BitVec 2) (x : Half) :
    (k.set w x).get v = if v = w then x else k.get v := by
  have h : ∀ w v : Fin (2 ^ 2), (k.set ⟨w⟩ x).get ⟨v⟩ = if (⟨v⟩ : BitVec 2) = ⟨w⟩ then x else k.get ⟨v⟩ := by
    intro w v
    fin_cases w <;> fin_cases v <;> rfl
  exact h w.toFin v.toFin

theorem Subkey.get_set (sk : Subkey) {i j : Nat} (x : Subval) (hi : i < 3) (hj : j < 3) :
    (sk.set i x).get j = if j = i then x else sk.get j := by
  interval_cases i <;> interval_cases j <;> rfl

@[simp] theorem Subkey.get_zero (j : Nat) : Subkey.zero.get j = 0 := by
  unfold Subkey.get Subkey.zero
  split_ifs <;> rfl

/-! ### One bit step -/

theorem takenBit_eq (w : Half) : takenBit w = BitVec.ofBool (w.getLsbD 0) := by
  apply BitVec.eq_of_getLsbD_eq
  intro i hi
  obtain rfl : i = 0 := by omega
  simp [takenBit]

/-- The word after a bit step, bit by bit: shifted down, the complement of bit 0 on top. -/
theorem rotatedWord_getLsbD (w : Half) {i : Nat} (hi : i < 16) :
    (rotatedWord w).getLsbD i = if i = 15 then !w.getLsbD 0 else w.getLsbD (i + 1) := by
  simp only [rotatedWord, takenBit_eq]
  by_cases h : i = 15
  · subst h
    cases hw : w.getLsbD 0 <;> simp
  · simp [h, Nat.add_comm 1 i, show ¬15 ≤ i by omega]

theorem bitStep_get (w v : BitVec 2) (x : KeyWords × Subval) :
    (bitStep w x).1.get v = if v = w then rotatedWord (x.1.get w) else x.1.get v :=
  KeyWords.get_set ..

/-- The slot after a bit step: shifted up, the taken bit in bit 0. -/
theorem bitStep_getLsbD (w : BitVec 2) (x : KeyWords × Subval) {i : Nat} (hi : i < 20) :
    (bitStep w x).2.getLsbD i = if i = 0 then (x.1.get w).getLsbD 0 else x.2.getLsbD (i - 1) := by
  simp only [bitStep, takenBit_eq]
  by_cases h : i = 0
  · subst h
    cases hw : (x.1.get w).getLsbD 0 <;> simp
  · cases hw : (x.1.get w).getLsbD 0 <;>
      simp [h, hi, show i - 1 < 20 by omega]

/-! ### One iteration and one round -/

/-- An iteration steps each of the four working words once. -/
theorem iterationSteps_get (kr v : BitVec 2) (x : KeyWords × Subval) :
    (iterationSteps kr x).1.get v = rotatedWord (x.1.get v) := by
  simp only [iterationSteps, bitStep_get]
  have h : ∀ kr v : BitVec 2, v = kr ∨ v = kr + 1 ∨ v = kr + 2 ∨ v = kr + 3 := by decide
  rcases h kr v with rfl | rfl | rfl | rfl <;> simp

/-- An iteration shifts its slot up by four and puts in bit 0 of the words kr, kr + 1, kr + 2, kr + 3, the first on
top. -/
theorem iterationSteps_getLsbD (kr : BitVec 2) (x : KeyWords × Subval) {i : Nat} (hi : i < 20) :
    (iterationSteps kr x).2.getLsbD i =
      if i < 4 then (x.1.get (kr + BitVec.ofNat 2 (3 - i))).getLsbD 0 else x.2.getLsbD (i - 4) := by
  simp only [iterationSteps]
  rw [bitStep_getLsbD _ _ hi]
  by_cases h0 : i = 0
  · subst h0
    simp [bitStep_get]
  rw [if_neg h0, bitStep_getLsbD _ _ (by omega)]
  by_cases h1 : i = 1
  · subst h1
    simp [bitStep_get]
  rw [if_neg (by omega), bitStep_getLsbD _ _ (by omega)]
  by_cases h2 : i = 2
  · subst h2
    simp [bitStep_get]
  rw [if_neg (by omega), bitStep_getLsbD _ _ (by omega)]
  by_cases h3 : i = 3
  · subst h3
    simp
  rw [if_neg (by omega), if_neg (by omega)]
  congr 1

/-- The first n iterations of a round take n steps on every working word. -/
theorem iterations_get (kr v : BitVec 2) (x : KeyWords × Subkey) (n : Nat) :
    ((List.range n).foldl (roundIteration kr) x).1.get v = rotatedWord^[n] (x.1.get v) := by
  induction n with
  | zero => rfl
  | succ n ih =>
    rw [List.range_succ, List.foldl_append, Function.iterate_succ_apply', ← ih]
    exact iterationSteps_get ..

/-- A round takes 15 steps on every working word. -/
theorem deriveRound_get (kr v : BitVec 2) (kb : KeyWords) :
    (deriveRound kr kb).1.get v = rotatedWord^[15] (kb.get v) := iterations_get ..

end Sys2Proof.Machine
end

