-- ==== Sys2Proof/Laws/Outcome.lean ====
section
/-! SUPPORT. What the two completions of a command say in the terms of the statements. -/

namespace Sys2Proof.Machine

theorem completes_error (e : ErrorCode) (s : State) : Completes s (completeError e s) e.number :=
  ⟨rfl, rfl, by cases e <;> rfl, rfl, rfl⟩

theorem completes_ok {s u : State} (h : u.status = s.status) : Completes s (completeOk u) 0 :=
  ⟨rfl, rfl, rfl, rfl, by simp [h]⟩

theorem onlyOutcome_error (e : ErrorCode) (s : State) : OnlyOutcome s (completeError e s) := rfl

end Sys2Proof.Machine
end

