-- ==== Sys2Proof/Laws/PerInstr.lean ====
section
/-! SUPPORT. Statements about every constructor of Instr, one lemma each. -/

namespace Sys2Proof.Laws.EncodeFields

/-- The fields of an instruction's word (30_encoding.md R94): OP is its row's, RSV is 0, and CTX holds its slot index when
it is well-formed. -/
def Statement (i : Instr) : Prop :=
  opField (encode i) = i.op ∧ rsvField (encode i) = 0 ∧ (i.WellFormed → (ctxField (encode i)).toNat = i.ctx)

/-- The fields of a word put together from OP and CTX. -/
theorem fields_of_append (c : Nat) (op : BitVec 4) :
    opField ((0 : BitVec 24) ++ BitVec.ofNat 4 c ++ op) = op ∧
      rsvField ((0 : BitVec 24) ++ BitVec.ofNat 4 c ++ op) = 0 ∧
      (c < 16 → (ctxField ((0 : BitVec 24) ++ BitVec.ofNat 4 c ++ op)).toNat = c) := by
  refine ⟨?_, ?_, fun h => ?_⟩
  · apply BitVec.eq_of_getLsbD_eq
    intro i hi
    simp only [opField, BitVec.getLsbD_extractLsb', BitVec.getLsbD_append]
    simp [hi]
  · apply BitVec.eq_of_getLsbD_eq
    intro i hi
    simp only [rsvField, BitVec.getLsbD_extractLsb', BitVec.getLsbD_append]
    have h1 : ¬ 8 + i < 4 := by omega
    have h2 : ¬ 8 + i - 4 < 4 := by omega
    simp [h1, h2]
  · have : ctxField ((0 : BitVec 24) ++ BitVec.ofNat 4 c ++ op) = BitVec.ofNat 4 c := by
      apply BitVec.eq_of_getLsbD_eq
      intro i hi
      simp only [ctxField, BitVec.getLsbD_extractLsb', BitVec.getLsbD_append]
      have h1 : ¬ 4 + i < 4 := by omega
      have h2 : 4 + i - 4 = i := by omega
      simp [hi]
    rw [this, BitVec.toNat_ofNat, Nat.mod_eq_of_lt h]

theorem construct (c : Nat) : Statement (.construct c) := fields_of_append c _

theorem setkey (c : Nat) : Statement (.setkey c) := fields_of_append c _

theorem encrypt (c : Nat) : Statement (.encrypt c) := fields_of_append c _

theorem decrypt (c : Nat) : Statement (.decrypt c) := fields_of_append c _

theorem decryptbuf (c : Nat) : Statement (.decryptbuf c) := fields_of_append c _

theorem clearkey (c : Nat) : Statement (.clearkey c) := fields_of_append c _

theorem keysize (c : Nat) : Statement (.keysize c) := fields_of_append c _

theorem blocksize (c : Nat) : Statement (.blocksize c) := fields_of_append c _

theorem reserved0 (c : Nat) : Statement (.reserved0 c) := fields_of_append c _

theorem reserved9 (c : Nat) : Statement (.reserved9 c) := fields_of_append c _

theorem reservedA (c : Nat) : Statement (.reservedA c) := fields_of_append c _

theorem reservedB (c : Nat) : Statement (.reservedB c) := fields_of_append c _

theorem reservedC (c : Nat) : Statement (.reservedC c) := fields_of_append c _

theorem reservedD (c : Nat) : Statement (.reservedD c) := fields_of_append c _

theorem reservedE (c : Nat) : Statement (.reservedE c) := fields_of_append c _

theorem reservedF (c : Nat) : Statement (.reservedF c) := fields_of_append c _

end Sys2Proof.Laws.EncodeFields
end

