-- ==== Sys2Proof/Laws/SpBox.lean ====
section
/-! SUPPORT. The built SP-box table, read at an index. -/

namespace Sys2Proof.Machine

theorem bank_built (t : Fin 4) : SpBox.built.bank t = builtBank t := by
  match t with
  | 0 => simp only [SpBox.bank, SpBox.built]
  | 1 => simp only [SpBox.bank, SpBox.built]
  | 2 => simp only [SpBox.bank, SpBox.built]
  | 3 => simp only [SpBox.bank, SpBox.built]

theorem builtBank_getElem? (t : Fin 4) (i : BitVec 10) : (builtBank t)[i.toNat]? = some (spboxValue t i) := by
  have := i.isLt
  rw [builtBank, List.getElem?_map, List.getElem?_range this]
  simp

/-- Every entry of the built table has the value 41_spbox.md R148 gives it. -/
theorem built_read (t : Fin 4) (i : BitVec 10) : SpBox.built.read t i.toNat = spboxValue t i := by
  rw [SpBox.read, bank_built, builtBank_getElem?]
  rfl

end Sys2Proof.Machine
end

