-- ==== Sys2Proof/Laws/Step.lean ====
section
/-! SUPPORT. What one step can do, and when the host moves. -/

namespace Sys2Proof.Machine

theorem nextHostMove_idle {s : State} {q : HostReq} {rest : List HostReq} (h : s.phase = .idle)
    (hh : s.host = q :: rest) : nextHostMove s = some (q.op, rest) := by
  simp [nextHostMove, hh, h]

theorem nextHostMove_nil {s : State} (hh : s.host = []) : nextHostMove s = none := by
  simp [nextHostMove, hh]

theorem nextHostMove_busy {s : State} {q : HostReq} {rest : List HostReq} (h : s.phase = .busy)
    (hh : s.host = q :: rest) :
    nextHostMove s = if q.early && !q.op.held then some (q.op, rest) else none := by
  simp [nextHostMove, hh, h]

theorem step_host {s : State} {op : HostOp} {rest : List HostReq} (h : nextHostMove s = some (op, rest)) :
    step s = .next (hostAccess op { s with host := rest }) := by
  simp [step, h]

theorem step_perform {s : State} (hp : s.phase = .busy) (h : nextHostMove s = none) : step s = perform s := by
  simp [step, h, hp]

theorem perform_instr {s : State} {i : Instr} (h : fetch s = .instr i) : perform s = exec i s := by
  simp [perform, h]

theorem perform_rejected {s : State} {r : DecodeReject} (h : fetch s = .rejected r) :
    perform s = .next (completeError .illegalCommand s) := by
  cases r
  simp [perform, h, illegalCommand]

/-- Everything a step can do: a host access, nothing when idle with none pending, or PERFORM. -/
theorem step_cases {s t : State} (h : step s = .next t) :
    (∃ op rest, nextHostMove s = some (op, rest) ∧ t = hostAccess op { s with host := rest }) ∨
      (nextHostMove s = none ∧ s.phase = .idle ∧ t = s) ∨
      (nextHostMove s = none ∧ s.phase = .busy ∧ perform s = .next t) := by
  unfold step at h
  split at h
  · rename_i op rest hm
    cases h
    exact .inl ⟨op, rest, hm, rfl⟩
  · rename_i hm
    split at h
    · rename_i hp
      cases h
      exact .inr (.inl ⟨hm, hp, rfl⟩)
    · rename_i hp
      exact .inr (.inr ⟨hm, hp, h⟩)

/-- Everything PERFORM can do: the decoded command, or ILLEGAL_COMMAND for a word with RSV ≠ 0. -/
theorem perform_cases {s t : State} (h : perform s = .next t) :
    (∃ i, fetch s = .instr i ∧ exec i s = .next t) ∨
      (fetch s = .rejected .reservedBits ∧ t = completeError .illegalCommand s) := by
  unfold perform at h
  split at h
  · rename_i i hi
    exact .inl ⟨i, hi, h⟩
  · rename_i hr
    cases h
    exact .inr ⟨hr, rfl⟩

/-- The accesses left pending are the tail of the pending ones. -/
theorem nextHostMove_rest {s : State} {op : HostOp} {rest : List HostReq} (h : nextHostMove s = some (op, rest)) :
    ∃ q, s.host = q :: rest ∧ q.op = op := by
  unfold nextHostMove at h
  split at h
  · cases h
  · rename_i q r hq
    split at h
    · cases h; exact ⟨q, hq, rfl⟩
    · split at h
      · cases h; exact ⟨q, hq, rfl⟩
      · cases h

/-! ### Runs -/

theorem run_succ_of_next (M : Host.Core) (k : Nat) (s t : M.State) (h : M.step s = .next t) :
    M.run (k + 1) s = M.run k t := by
  simp only [Host.Core.run, h]

/-- A run of the machine whose first step answers next. -/
theorem core_run_succ (k : Nat) {s t : State} (h : step s = .next t) : core.run (k + 1) s = core.run k t :=
  run_succ_of_next core k s t h

theorem core_run_zero (s : State) : core.run 0 s = .next s := rfl

end Sys2Proof.Machine
end

