-- ==== Sys2Proof/Tests/Slice0.lean ====
section
/-! SUPPORT. Tests against 95_test_vectors.md and the encodings of 30_encoding.md, the smoke test of WellFormed, and one
witness for every statement that has hypotheses. -/

namespace Sys2Proof.Tests

open Sys2Proof Sys2Proof.Machine

/-! ### Well-formedness and decoding -/

theorem test_wellFormed_refuses_ctx_16 : ¬(Instr.construct 16).WellFormed ∧ ¬(Instr.reservedF 16).WellFormed := by
  decide

theorem test_wellFormed_takes_ctx_15 : (Instr.blocksize 15).WellFormed := by decide

/-! Words written out from 30_encoding.md R94 and R95: RSV in bits 31:8, CTX in 7:4, OP in 3:0. -/

theorem test_decode_construct : decode 0b00000000000000000000000000010001#32 = .instr (.construct 1) := by decide

theorem test_decode_setkey : decode 0b00000000000000000000000000000010#32 = .instr (.setkey 0) := by decide

theorem test_decode_encrypt : decode 0b00000000000000000000000000100011#32 = .instr (.encrypt 2) := by decide

theorem test_decode_decrypt : decode 0b00000000000000000000000001000100#32 = .instr (.decrypt 4) := by decide

theorem test_decode_decryptbuf : decode 0b00000000000000000000000010000101#32 = .instr (.decryptbuf 8) := by decide

theorem test_decode_clearkey : decode 0b00000000000000000000000011110110#32 = .instr (.clearkey 15) := by decide

theorem test_decode_keysize : decode 0b00000000000000000000000000110111#32 = .instr (.keysize 3) := by decide

theorem test_decode_blocksize : decode 0b00000000000000000000000011111000#32 = .instr (.blocksize 15) := by decide

theorem test_decode_reserved0 : decode 0b00000000000000000000000000000000#32 = .instr (.reserved0 0) := by decide

theorem test_decode_reserved9 : decode 0b00000000000000000000000000011001#32 = .instr (.reserved9 1) := by decide

theorem test_decode_reservedA : decode 0b00000000000000000000000000001010#32 = .instr (.reservedA 0) := by decide

theorem test_decode_reservedB : decode 0b00000000000000000000000001011011#32 = .instr (.reservedB 5) := by decide

theorem test_decode_reservedC : decode 0b00000000000000000000000000001100#32 = .instr (.reservedC 0) := by decide

theorem test_decode_reservedD : decode 0b00000000000000000000000010101101#32 = .instr (.reservedD 10) := by decide

theorem test_decode_reservedE : decode 0b00000000000000000000000000001110#32 = .instr (.reservedE 0) := by decide

theorem test_decode_reservedF : decode 0b00000000000000000000000000111111#32 = .instr (.reservedF 3) := by decide

/-- 30_encoding.md R96: RSV ≠ 0, lowest and highest bit. -/
theorem test_decode_refuses_rsv : decode 0x00000101#32 = .rejected .reservedBits ∧
    decode 0x80000001#32 = .rejected .reservedBits := by decide

theorem test_decodeTableWord : decodeTableWord 32 0x25 = some (.decryptbuf 2) ∧ decodeTableWord 32 0x125 = none := by
  decide

/-! ### Small states -/

/-- Bytes written at an address. -/
def cells (a : Nat) (bytes : List Byte) : Memory := (bytes.zipIdx a).map fun x => (x.2, x.1)

/-- The parameters of the tests: 2 slots, MAX_LEVEL 2, 64 bytes. -/
def params : Params := { nCtx := 2, maxLevel := 2, bufBytes := 64 }

/-- A built core, BUSY with a command word and its four latched operands. -/
def running (w a0 a1 a2 a3 : Word) (ctxs : List Ctx) (buf : Memory) : State :=
  { State.resetWith params with
    phase := .busy
    eng := { Engine.reset with lcmd := w, la0 := a0, la1 := a1, la2 := a2, la3 := a3 }
    spboxBuilt := true
    spbox := SpBox.built
    ctxs := ctxs
    buf := buf }

/-- A constructed thin slot, its schedule given from entry 0 up. -/
def thin (sched : List Subkey) : Ctx :=
  { valid := true, size := 1, rounds := 8, sched := sched ++ List.replicate (32 - sched.length) Subkey.zero }

/-- A constructed slot of level n. -/
def level (n : Nat) (sched : List Subkey) : Ctx :=
  { valid := true, size := BitVec.ofNat 16 n, rounds := BitVec.ofNat 21 (16 * n)
    sched := sched ++ List.replicate (32 - sched.length) Subkey.zero }

/-- A slot not constructed. -/
def unused : Ctx := Ctx.reset params

/-- What a step answers, of which the tests look at one or two fields. -/
def answer {α : Type} (o : Host.Outcome State Fault Refusal) (f : State → α) : Option α :=
  match o with
  | .next t => some (f t)
  | _ => none

/-- The key of 95_test_vectors.md section 1.1. -/
def key1 : List Byte := [0x12, 0x23, 0x34, 0x45, 0x56, 0x67, 0x78, 0x89]

/-- The plaintext of section 1.1. -/
def plain1 : List Byte := [0x11, 0x22, 0x33, 0x44, 0x55, 0x66, 0x77, 0x88]

/-- The schedule of section 5.2. -/
def sched1 : List Subkey :=
  [⟨0xF865F, 0x5086A, 0x6508C⟩, ⟨0x035FE, 0x0E350, 0x5FE3A⟩, ⟨0xC5029, 0xF9502, 0xF295F⟩,
   ⟨0x50BC5, 0x65FBC, 0x0C5FB⟩, ⟨0x0F950, 0x5F295, 0xC5029⟩, ⟨0x195FE, 0xF035F, 0x50E35⟩,
   ⟨0xCAF43, 0xB9A04, 0x0F3A0⟩, ⟨0x5F09A, 0x6A079, 0x8CAF7⟩, ⟨0xFE6A0, 0x50FCA, 0x3AF1C⟩,
   ⟨0x4350B, 0x0465F, 0xAF0C5⟩, ⟨0x6A0F9, 0xD65F2, 0xFDC50⟩, ⟨0x508CA, 0x65F09, 0x86A07⟩,
   ⟨0xFBCAF, 0x5FB9A, 0xC50F3⟩, ⟨0x1CAF0, 0x01C50, 0xA0195⟩, ⟨0x9AF73, 0x79A0F, 0xF795F⟩,
   ⟨0x5029A, 0x95023, 0x295F0⟩]

/-! ### Units, against 95_test_vectors.md sections 2 to 5 -/

theorem test_gfMul : gfMul 0x80 0x02 333 = 0x4D ∧ gfMul 0x02 0x80 313 = 0x39 ∧ gfMul 0xC3 0x3C 451 = 0xEA := by decide

theorem test_gfExp7 : gfExp7 0x83 333 = 0x17 ∧ gfExp7 0xCD 369 = 0x95 ∧ gfExp7 0 333 = 0 := by decide +kernel

theorem test_gfPorts : gfMulPort 0x100 1 333 = none ∧ gfMulPort 1 1 0x0FF = none ∧ gfMulPort 1 1 256 = some 1 := by
  decide

theorem test_perm32 : perm32 0x12345678 = 0x056F2360 ∧ perm32 0x000000FF = 0x41282481 := by decide +kernel

theorem test_spboxValue : spboxValue 0 0x3FE = 0x82141002 ∧ spboxValue 1 0x155 = 0x18020000 ∧
    spboxValue 2 0x201 = 0x00014108 ∧ spboxValue 3 0x1FF = 0x00282400 := by decide +kernel

theorem test_roundF_swaps : roundF SpBox.built 0x12345678 ⟨0xABCDE, 0x12345, 0x00000⟩ = 0xC283F092 ∧
    roundF SpBox.built 0x12345678 ⟨0xABCDE, 0x12345, 0xFFFFF⟩ = 0x5FF6B0FB := by decide +kernel

theorem test_loadKb : loadKb key1 = { w0 := 0x7889, w1 := 0x5667, w2 := 0x3445, w3 := 0x1223 } := by decide

theorem test_bitStep : rotatedWord 0x1234 = 0x891A ∧ rotatedWord 0x0001 = 0x0000 := by decide

/-! ### Commands, one step each -/

/-- 95_test_vectors.md program 5, step 2. -/
theorem test_construct_level_2 :
    answer (step (running 0x11 2 0 0 0 [unused, unused] []))
      (fun t => (t.statusWord, (t.ctxAt 1).size, (t.ctxAt 1).rounds)) = some (0x102, 2, 32) := by decide +kernel

/-- 95_test_vectors.md section 8: level -2^31 is thin. -/
theorem test_construct_min_is_thin :
    answer (step (running 0x11 0x80000000 0 0 0 [unused, unused] []))
      (fun t => (t.statusWord, (t.ctxAt 1).size, (t.ctxAt 1).rounds)) = some (0x102, 1, 8) := by decide +kernel

/-- 95_test_vectors.md section 5.2. -/
theorem test_setkey_level_1 :
    answer (step (running 0x02 0 8 0 0 [level 1 [], unused] (cells 0 key1))) (fun t => (t.ctxAt 0).sched.take 16) =
      some sched1 := by decide +kernel

/-- 95_test_vectors.md section 8: length before range. -/
theorem test_setkey_length_first :
    answer (step (running 0x02 62 7 0 0 [level 1 sched1, unused] [])) (fun t => (t.statusWord, (t.ctxAt 0).sched.take 16)) =
      some (0x156, sched1) := by decide +kernel

/-- 95_test_vectors.md section 6, thin row 4, in place. -/
theorem test_encrypt_thin :
    answer (step (running 0x03 56 8 56 8 [thin (sched1.take 8), unused] (cells 56 plain1))) (fun t => t.buf) =
      some (cells 56 [0x80, 0x77, 0x7F, 0x99, 0xD1, 0x24, 0xA0, 0xA0]) := by decide +kernel

/-- 20_memory.md R66; 95_test_vectors.md section 8, last row: an unwritten source byte is recorded and the command
completes. -/
theorem test_encrypt_unwritten :
    answer (step (running 0x03 0 8 8 8 [thin [], unused] (cells 0 (plain1.take 7)))) (fun t => (t.statusWord, t.faults)) =
      some (0x102, [.uninitRead 7]) := by decide +kernel

/-- 95_test_vectors.md section 1.1, decrypted. -/
theorem test_decrypt_level_1 :
    answer (step (running 0x14 0 8 16 8 [unused, level 1 sched1] (cells 0 [0x58, 0x4C, 0x8C, 0xFE, 0x67, 0x2A, 0xD3, 0x6B])))
      (fun t => t.buf.drop 8) = some (cells 16 plain1) := by decide +kernel

/-- 95_test_vectors.md section 8: the destination range. -/
theorem test_decrypt_range :
    answer (step (running 0x14 0 8 57 8 [unused, level 1 sched1] (cells 0 plain1))) (fun t => (t.statusWord, t.buf)) =
      some (0x186, cells 0 plain1) := by decide +kernel

/-- 44_cipher_engine.md R236 with 95_test_vectors.md section 6, thin row 4, DEC(pt): one block and a 3-byte tail. -/
theorem test_decryptbuf_tail :
    answer (step (running 0x05 0 11 32 24 [thin (sched1.take 8), unused] (cells 0 (plain1 ++ [0xAA, 0xBB, 0xCC]))))
      (fun t => t.buf.drop 11) =
      some (cells 32 [0xDC, 0xA1, 0x62, 0x75, 0xA0, 0xF7, 0xA6, 0xAB, 0xAA, 0xBB, 0xCC]) := by decide +kernel

/-- 95_test_vectors.md section 8: the capacity is not range-checked. -/
theorem test_decryptbuf_cap :
    answer (step (running 0x05 40 3 61 0xFFFFFFFF [level 1 [], unused] (cells 40 [1, 2, 3]))) (fun t => t.buf.drop 3) =
      some (cells 61 [1, 2, 3]) := by decide +kernel

/-- 44_cipher_engine.md R237. -/
theorem test_clearkey :
    answer (step (running 0x06 0 0 0 0 [level 1 sched1, unused] [])) (fun t => t.ctxAt 0) = some (level 1 []) := by
  decide +kernel

/-- 95_test_vectors.md section 8: CLEARKEY 2 with N_CTX = 2. -/
theorem test_clearkey_context :
    answer (step (running 0x26 0 0 0 0 [level 1 sched1, unused] [])) (fun t => t.statusWord) = some 0x126 := by
  decide +kernel

/-- 95_test_vectors.md section 9.1. -/
theorem test_keysize_level_2 :
    answer (step (running 0x17 0 0 0 0 [unused, level 2 []] [])) (fun t => (t.statusWord, t.result)) = some (0x102, 16) := by
  decide +kernel

/-- 95_test_vectors.md section 8: BLOCKSIZE with CTX 15, from reset. -/
theorem test_blocksize_ctx_15 :
    answer (step (State.reset.withFetchWord 32 0xF8)) (fun t => (t.statusWord, t.result)) = some (0x002, 8) := by
  decide +kernel

/-- 95_test_vectors.md section 8: reserved operations from reset. -/
theorem test_reserved_operations :
    ∀ w ∈ [0x00, 0xF9, 0x0A, 0x3B, 0x0C, 0x1D, 0x0E, 0x3F],
      answer (step (State.reset.withFetchWord 32 w)) (fun t => t.statusWord) = some 0x016 := by decide +kernel

/-- 95_test_vectors.md section 8: RSV ≠ 0 on a built core. -/
theorem test_rsv_is_illegal :
    answer (step (running 0x108 0 0 0 0 [unused, unused] [])) (fun t => (t.statusWord, t.result)) = some (0x116, 0) := by
  decide +kernel

/-- 95_test_vectors.md program 5, step 7 (b): the second write lands while BUSY and is dropped. -/
theorem test_second_command_dropped :
    answer (step { running 0x17 0 0 0 0 [unused, level 2 []] [] with host := [⟨.regWrite 0 8, true⟩] })
      (fun t => (t.statusWord, t.eng.lcmd)) = some (0x301, 0x17) := by decide +kernel

/-- 95_test_vectors.md program 5, step 7 (a): PERFORM comes first, and the write is still to come. -/
theorem test_perform_first :
    answer (step { running 0x17 0 0 0 0 [unused, level 2 []] [] with host := [⟨.regWrite 0 8, false⟩] })
      (fun t => (t.statusWord, t.result, t.host)) = some (0x102, 16, [⟨.regWrite 0 8, false⟩]) := by decide +kernel

theorem test_reset_memory_wf : State.reset.buf.wf := by decide

/-! ### Witnesses: a state and operands that meet each statement's hypotheses -/

/-- A built core, IDLE, with a thin slot 0 and a level-2 slot 1. -/
def idleState : State := { running 0 0 0 0 0 [thin [], level 2 []] (cells 0 plain1) with phase := .idle }

/-- The same core, BUSY with a KEYSIZE of slot 1. -/
def busyState : State := running 0x17 0 0 0 0 [thin [], level 2 []] (cells 0 plain1)

theorem test_witness_DecodeOfEncode : (Instr.encrypt 0).WellFormed ∧ (Instr.encrypt 15).WellFormed := by decide

theorem test_witness_EncodeOfDecode : decode 0x000000F3 = .instr (.encrypt 15) := by decide

theorem test_witness_IllegalWordIsIssuedThenFails :
    ∀ n ∈ [0x00000100, 0x80000001, 0x00000000, 0x00000009, 0x0000000F], ∃ w : Word, w = BitVec.ofNat 32 n ∧
      (rsvField w ≠ 0 ∨ opField w = 0 ∨ 9 ≤ (opField w).toNat) ∧ idleState.phase = .idle ∧
        (running w 0 0 0 0 [] []).phase = .busy ∧ (running w 0 0 0 0 [] []).eng.lcmd = w ∧
        nextHostMove (running w 0 0 0 0 [] []) = none := by
  intro n h
  refine ⟨_, rfl, ?_⟩
  revert n
  decide +kernel

theorem test_witness_StepRunsDecodedCommand :
    busyState.phase = .busy ∧ nextHostMove busyState = none ∧ decode busyState.eng.lcmd = .instr (.keysize 1) := by decide

/-- Each clause in turn: nothing pending; a pending access when IDLE; an early one when BUSY; a held one when BUSY. -/
theorem test_witness_HostMovesInProgramOrder :
    (idleState.phase = .idle ∧ idleState.host = []) ∧
    (∃ s : State, s.host = [⟨.bufRead 0, false⟩] ∧ s.phase = .idle) ∧
    (∃ s : State, s.host = [⟨.regRead 5, true⟩] ∧ s.phase = .busy ∧ HostOp.held (.regRead 5) = false) ∧
    (∃ s : State, s.phase = .busy ∧ s.host = [⟨.bufRead 0, true⟩] ∧
      ∀ q ∈ s.host.head?, q.early = false ∨ q.op.held = true) :=
  ⟨⟨rfl, rfl⟩, ⟨{ idleState with host := [⟨.bufRead 0, false⟩] }, rfl, rfl⟩,
    ⟨{ busyState with host := [⟨.regRead 5, true⟩] }, rfl, rfl, rfl⟩,
    ⟨{ busyState with host := [⟨.bufRead 0, true⟩] }, rfl, rfl, by simp [HostOp.held]⟩⟩

theorem test_witness_BufferAccessIsHeldWhileBusy :
    ∀ op ∈ [HostOp.bufRead 63, .bufWrite 0 7], ∃ s : State, s.phase = .busy ∧ s.host = [⟨op, true⟩] ∧
      (∃ a v, op = .bufWrite a v ∨ op = .bufRead a) := by
  intro op h
  refine ⟨{ busyState with host := [⟨op, true⟩] }, rfl, rfl, ?_⟩
  rcases List.mem_pair.1 h with rfl | rfl
  · exact ⟨63, 0, .inr rfl⟩
  · exact ⟨0, 7, .inl rfl⟩

theorem test_witness_FetchWordRunsNext : decodeTableWord 32 0x17 = some (.keysize 1) := by decide

theorem test_witness_IssueLatchesCommand : idleState.phase = .idle := rfl

theorem test_witness_CmdWriteWhileBusyIsDropped : busyState.phase = .busy := rfl

theorem test_witness_PerformIsEventuallyTaken :
    ∃ s : State, s.phase = .busy ∧ s.host = [⟨.regWrite 0 8, true⟩, ⟨.bufRead 0, true⟩] ∧ ∀ q ∈ s.host, q.op ≠ .reset :=
  ⟨{ busyState with host := [⟨.regWrite 0 8, true⟩, ⟨.bufRead 0, true⟩] }, rfl, rfl, by simp⟩

theorem test_witness_HostCannotTouchRunningCommand :
    ∀ op ∈ [HostOp.regWrite 0 8, .regWrite 5 0x200, .regRead 6], busyState.phase = .busy ∧ op.held = false ∧ op ≠ .reset := by
  decide

theorem test_witness_ReservedIndicesReadZero : 9 ≤ (9 : Fin 16).val ∧ 9 ≤ (15 : Fin 16).val := by decide

/-- Each parameter at both ends; BUF_BYTES at 2^32, where BUFSZ reads 0. -/
theorem test_witness_CapAndBufszShowParameters :
    (State.resetWith { nCtx := 1, maxLevel := 1, bufBytes := 8 }).params.Legal ∧
      (State.resetWith { nCtx := 16, maxLevel := 65535, bufBytes := 2 ^ 32 }).params.Legal := by decide

theorem test_witness_BufWriteThenRead :
    0 < idleState.params.bufBytes ∧ 63 < idleState.params.bufBytes ∧
      (hostAccess (.bufWrite 63 7) idleState).params = idleState.params ∧
      (hostAccess (.bufWrite 63 7) idleState).buf.read 63 = some 7 := by decide

theorem test_witness_UnwrittenBufReadIsRecorded :
    63 < idleState.params.bufBytes ∧ idleState.buf.read 63 = none ∧ 8 < idleState.params.bufBytes ∧
      idleState.buf.read 8 = none := by decide

theorem test_witness_OutOfRangeAccessIsRefused : idleState.params.bufBytes ≤ 64 := by decide

theorem test_witness_ResetValues :
    (∃ t, t = State.resetWith busyState.params) ∧ (∃ t, t = hostAccess .reset busyState) := ⟨⟨_, rfl⟩, ⟨_, rfl⟩⟩

theorem test_witness_ResetMeetsInv : params.Legal ∧ Config.params.Legal := by decide

/-- An error of each kind of check: a reserved operation, a slot past N_CTX, a length; and an illegal word. -/
theorem test_witness_ErrorsChangeOnlyStatus :
    (∀ i ∈ [Instr.reserved9 0, .keysize 2, .setkey 1, .encrypt 0],
      ∃ t, exec i busyState = .next t ∧ t.status.err = true) ∧
    ∃ t, perform (running 0x108 0 0 0 0 [] []) = .next t ∧ t.status.err = true := by
  refine ⟨fun i h => ?_, _, rfl, rfl⟩
  simp only [List.mem_cons, List.not_mem_nil, or_false] at h
  rcases h with rfl | rfl | rfl | rfl <;> exact ⟨_, rfl, rfl⟩

theorem test_witness_FirstErrorIsReported :
    (∃ t, exec (.construct 0) (running 1 3 0 0 0 [unused, unused] []) = .next t ∧ t.status.errCode = 4) ∧
    (∃ t, exec (.setkey 0) (running 2 57 8 0 0 [thin [], unused] []) = .next t ∧ t.status.errCode = 8) ∧
    (∃ t, exec (.encrypt 1) (running 3 0 8 0 9 [thin [], unused] []) = .next t ∧ t.status.errCode = 3) ∧
    (∃ t, exec (.decrypt 0) (running 4 0 8 57 8 [thin [], unused] []) = .next t ∧ t.status.errCode = 8) ∧
    (∃ t, exec (.decryptbuf 0) (running 5 64 2 64 1 [thin [], unused] []) = .next t ∧ t.status.errCode = 7) ∧
    (∃ t, exec (.clearkey 2) (running 6 0 0 0 0 [thin [], unused] []) = .next t ∧ t.status.errCode = 2) :=
  ⟨⟨_, rfl, rfl⟩, ⟨_, rfl, rfl⟩, ⟨_, rfl, rfl⟩, ⟨_, rfl, rfl⟩, ⟨_, rfl, rfl⟩, ⟨_, rfl, rfl⟩⟩

theorem test_witness_ReservedOperationsComplete :
    Instr.reservedF 15 ∈ [Instr.reserved0 15, .reserved9 15, .reservedA 15, .reservedB 15, .reservedC 15, .reservedD 15,
      .reservedE 15, .reservedF 15] := by decide

/-- Levels -2^31, 0, 1, MAX_LEVEL and MAX_LEVEL + 1; the last slot and the first absent one; with and without a built
table. -/
theorem test_witness_ConstructStartsSlot :
    (∀ a ∈ [0x80000000, 0, 1, 2], ∀ b : Bool,
      ∃ s : State, s = { running 0x11 (.ofNat 32 a) 0 0 0 [unused, unused] [] with spboxBuilt := b } ∧
        s.params.Legal ∧ s.ctxs.length = s.params.nCtx ∧ 1 < s.params.nCtx ∧
        ¬(1 ≤ s.eng.la0.toInt ∧ (s.params.maxLevel : Int) < s.eng.la0.toInt)) ∧
    (∃ s : State, s = running 0x11 3 0 0 0 [unused, unused] [] ∧ s.params.Legal ∧ s.ctxs.length = s.params.nCtx ∧
      s.params.nCtx ≤ 2 ∧ 1 < s.params.nCtx ∧ 1 ≤ s.eng.la0.toInt ∧ (s.params.maxLevel : Int) < s.eng.la0.toInt) := by
  refine ⟨fun a h b => ⟨_, rfl, ?_⟩, _, rfl, by decide⟩
  revert a b
  decide +kernel

/-- The last key address, on unwritten bytes. -/
theorem test_witness_SetkeyCompletes : ∃ s : State, s = running 2 48 16 0 0 [level 2 [], unused] [] ∧
    s.ctxs.length = s.params.nCtx ∧ 0 < s.params.nCtx ∧ (s.ctxAt 0).valid = true ∧
    s.eng.la1.toNat = 8 * (s.ctxAt 0).size.toNat ∧ s.eng.la0.toNat + s.eng.la1.toNat ≤ s.params.bufBytes :=
  ⟨_, rfl, by decide⟩

theorem test_witness_ThinScheduleClosedForm : ∃ s : State, s = running 2 56 8 0 0 [thin [], unused] (cells 56 key1) ∧
    s.ctxs.length = s.params.nCtx ∧ 0 < s.params.nCtx ∧ (s.ctxAt 0).valid = true ∧ (s.ctxAt 0).size.toNat = 1 ∧
    (s.ctxAt 0).rounds.toNat = 8 ∧ 8 ≤ (s.ctxAt 0).sched.length ∧ s.eng.la1.toNat = 8 ∧
    s.eng.la0.toNat + 8 ≤ s.params.bufBytes ∧ key1.length = 8 ∧
    ∀ j, (hj : j < key1.length) → s.buf.read (s.eng.la0.toNat + j) = some key1[j] :=
  ⟨_, rfl, by decide⟩

theorem test_witness_StandardScheduleClosedForm :
    ∃ s : State, s = running 2 0 16 0 0 [level 2 [], unused] (cells 0 (key1 ++ plain1)) ∧
    s.ctxs.length = s.params.nCtx ∧ 0 < s.params.nCtx ∧ (s.ctxAt 0).valid = true ∧ 1 ≤ (s.ctxAt 0).size.toNat ∧
    (s.ctxAt 0).rounds.toNat = 16 * (s.ctxAt 0).size.toNat ∧ (s.ctxAt 0).rounds.toNat ≤ (s.ctxAt 0).sched.length ∧
    s.eng.la1.toNat = 8 * (s.ctxAt 0).size.toNat ∧ s.eng.la0.toNat + s.eng.la1.toNat ≤ s.params.bufBytes ∧
    (key1 ++ plain1).length = s.eng.la1.toNat ∧
    ∀ j, (hj : j < (key1 ++ plain1).length) → s.buf.read (s.eng.la0.toNat + j) = some (key1 ++ plain1)[j] :=
  ⟨_, rfl, by decide⟩

/-- A slot whose schedule is all zero meets the slot invariant when its sizes do. -/
theorem ctx_inv_of_zero {p : Params} {x : Ctx} (hs : x.sched = zeroSched p) (hv : x.valid = true)
    (hz : (x.size.toNat = 1 ∧ x.rounds.toNat = 8) ∨
      (1 ≤ x.size.toNat ∧ x.size.toNat ≤ p.maxLevel ∧ x.rounds.toNat = 16 * x.size.toNat)) : x.Inv p where
  storage := by rw [hs]; simp [zeroSched]
  sized := fun _ => hz
  unused := fun h => by rw [hv] at h; cases h
  beyond := fun k _ => by
    obtain ⟨v, n, r, l⟩ := x
    obtain rfl : l = zeroSched p := hs
    exact subkey_zeroSched ..

theorem thin_inv : (thin []).Inv params := ctx_inv_of_zero (by decide) rfl (.inl (by decide))

theorem level_inv : (level 2 []).Inv params := ctx_inv_of_zero (by decide) rfl (.inr (by decide))

theorem test_witness_SetkeyReplacesWholeSchedule :
    ∃ s s' t t' : State, SameButSchedules s s' ∧ s ≠ s' ∧ s.ctxs.length = s.params.nCtx ∧ (s.ctxAt 0).Inv s.params ∧
      (s.ctxAt 0).valid = true ∧ 7 < (s.ctxAt 0).rounds.toNat ∧ exec (.setkey 0) s = .next t ∧
      exec (.setkey 0) s' = .next t' ∧ t.status.err = false :=
  ⟨running 2 0 8 0 0 [thin [], unused] (cells 0 key1), running 2 0 8 0 0 [thin sched1, unused] (cells 0 key1), _, _,
    ⟨rfl, by decide⟩, fun h => absurd (congrArg State.ctxs h) (by decide), rfl, thin_inv, rfl, by decide, rfl, rfl, rfl⟩

/-- The hypotheses of the block statements: the last source address, the first destination address. -/
theorem test_witness_EncryptWritesBlock : ∃ s : State, s = running 3 56 8 0 8 [thin [], unused] (cells 56 plain1) ∧
    0 < s.params.nCtx ∧ (s.ctxAt 0).valid = true ∧ s.spboxBuilt = true ∧ s.eng.la1.toNat = 8 ∧ s.eng.la3.toNat = 8 ∧
    s.eng.la0.toNat + 8 ≤ s.params.bufBytes ∧ s.eng.la2.toNat + 8 ≤ s.params.bufBytes ∧ plain1.length = 8 ∧
    ∀ j, (hj : j < plain1.length) → s.buf.read (s.eng.la0.toNat + j) = some plain1[j] :=
  ⟨_, rfl, by decide⟩

theorem test_witness_DecryptWritesBlock : ∃ s : State, s = running 0x14 0 8 56 8 [unused, level 2 []] (cells 0 plain1) ∧
    1 < s.params.nCtx ∧ (s.ctxAt 1).valid = true ∧ s.spboxBuilt = true ∧ s.eng.la1.toNat = 8 ∧ s.eng.la3.toNat = 8 ∧
    s.eng.la0.toNat + 8 ≤ s.params.bufBytes ∧ s.eng.la2.toNat + 8 ≤ s.params.bufBytes ∧ plain1.length = 8 ∧
    ∀ j, (hj : j < plain1.length) → s.buf.read (s.eng.la0.toNat + j) = some plain1[j] :=
  ⟨_, rfl, by decide⟩

/-- Overlapping ranges, the last source byte unwritten. -/
theorem test_witness_BlockCommandsCompleteOnAnyBytes :
    ∃ s : State, s = running 3 0 8 4 8 [thin [], unused] (cells 0 (plain1.take 7)) ∧
      Instr.decrypt 0 ∈ [Instr.encrypt 0, .decrypt 0] ∧ Instr.encrypt 0 ∈ [Instr.encrypt 0, .decrypt 0] ∧
      0 < s.params.nCtx ∧ (s.ctxAt 0).valid = true ∧ s.spboxBuilt = true ∧ s.eng.la1.toNat = 8 ∧ s.eng.la3.toNat = 8 ∧
      s.eng.la0.toNat + 8 ≤ s.params.bufBytes ∧ s.eng.la2.toNat + 8 ≤ s.params.bufBytes :=
  ⟨_, rfl, by decide⟩

/-- Lengths 0 and 11, the ranges up to the end of the RAM, a capacity above the length. -/
theorem test_witness_DecryptbufCompletesOnAnyBytes :
    ∀ x ∈ [(64, 0, 64, 0), (53, 11, 0, 0xFFFFFFFF)],
      ∃ s : State, s = running 5 (.ofNat 32 x.1) (.ofNat 32 x.2.1) (.ofNat 32 x.2.2.1) (.ofNat 32 x.2.2.2) [thin [], unused] [] ∧
        0 < s.params.nCtx ∧ (s.ctxAt 0).valid = true ∧ s.spboxBuilt = true ∧ s.eng.la1.toNat ≤ s.eng.la3.toNat ∧
        s.eng.la0.toNat + s.eng.la1.toNat ≤ s.params.bufBytes ∧ s.eng.la2.toNat + s.eng.la1.toNat ≤ s.params.bufBytes := by
  intro x h
  refine ⟨_, rfl, ?_⟩
  revert x
  decide +kernel

/-- In place, just above and just below. -/
theorem test_witness_DecryptbufDecryptsBlocksAndCopiesTail :
    ∀ d ∈ [20, 28, 12], ∃ s : State, s = running 5 20 8 (.ofNat 32 d) 8 [thin [], unused] (cells 20 plain1) ∧
      0 < s.params.nCtx ∧ (s.ctxAt 0).valid = true ∧ s.spboxBuilt = true ∧ s.eng.la1.toNat ≤ s.eng.la3.toNat ∧
      s.eng.la0.toNat + s.eng.la1.toNat ≤ s.params.bufBytes ∧ s.eng.la2.toNat + s.eng.la1.toNat ≤ s.params.bufBytes ∧
      plain1.length = s.eng.la1.toNat ∧
      (∀ j, (hj : j < plain1.length) → s.buf.read (s.eng.la0.toNat + j) = some plain1[j]) ∧
      (s.eng.la2 = s.eng.la0 ∨ s.eng.la0.toNat + plain1.length ≤ s.eng.la2.toNat ∨
        s.eng.la2.toNat + plain1.length ≤ s.eng.la0.toNat) := by
  intro d h
  refine ⟨_, rfl, ?_⟩
  revert d
  decide +kernel

theorem test_witness_ClearkeyZeroesSchedule : idleState.ctxs.length = idleState.params.nCtx ∧
    idleState.params.nCtx ≤ 2 ∧ 1 < idleState.params.nCtx ∧ (idleState.ctxAt 1).valid = true ∧
    ((running 6 0 0 0 0 [unused, thin []] []).ctxAt 0).valid = false := by decide

theorem test_witness_KeysizeWritesResult : busyState.params.nCtx ≤ 2 ∧ 1 < busyState.params.nCtx ∧
    (busyState.ctxAt 1).valid = true ∧ ((running 7 0 0 0 0 [unused, thin []] []).ctxAt 0).valid = false := by decide

theorem test_witness_ContextsAreIndependent :
    ∃ t, exec (.construct 0) busyState = .next t ∧ 1 ≠ (Instr.construct 0).ctx := ⟨_, rfl, by decide⟩

theorem test_witness_GfMulCornersAndCommutes : 256 ≤ (256 : BitVec 9).toNat ∧ 256 ≤ (511 : BitVec 9).toNat := by decide

theorem test_witness_SaltSwapsWhereSet : 0 < 20 ∧ 19 < 20 := by decide

theorem test_witness_DecryptInvertsEncrypt :
    plain1.length = 8 ∧ (idleState.ctxAt 0).rounds.toNat % 2 = 0 ∧ (idleState.ctxAt 1).rounds.toNat % 2 = 0 := by decide

/-- A built core with a thin and a level-2 slot, BUSY with an ENCRYPT of written bytes, meets the invariant. -/
def invState : State := running 3 0 8 56 8 [thin [], level 2 []] (cells 0 plain1)

theorem invState_inv : invState.Inv where
  legal := by decide
  slots := rfl
  slot := fun x hx => by
    rcases List.mem_pair.1 hx with rfl | rfl
    · exact thin_inv
    · exact level_inv
  built := fun _ _ _ => rfl
  table := fun _ => rfl
  code := rfl
  errDone := by decide
  busyNotDone := fun _ => rfl
  bufWf := by decide
  bufRange := by decide
  faultsWf := by decide
  noTorn := by decide

theorem test_witness_EncryptThenDecryptRestoresBlock :
    invState.Inv ∧ plain1.length = 8 ∧
      (∀ j, (hj : j < plain1.length) → invState.buf.read (invState.eng.la0.toNat + j) = some plain1[j]) ∧
      (∃ t, exec (.encrypt 0) invState = .next t ∧ t.status.err = false) ∧ (56 : Word).toNat + 8 ≤ invState.params.bufBytes :=
  ⟨invState_inv, rfl, by decide, ⟨_, rfl, rfl⟩, by decide⟩

theorem test_witness_ZeroScheduleIsSelfInverse : plain1.length = 8 ∧ (invState.ctxAt 0).rounds.toNat % 2 = 0 ∧
    ∀ k, (invState.ctxAt 0).subkey k = Subkey.zero := ⟨rfl, by decide, fun k => subkey_zeroSched params true 1 8 k⟩

theorem test_witness_StepKeepsInv : ∃ t, invState.Inv ∧ step invState = .next t := ⟨_, invState_inv, rfl⟩

/-- Once built; and before, on a host access, on an error, and on a command that is no CONSTRUCT. -/
theorem test_witness_BuiltTableIsNeverChanged :
    (∃ t, step busyState = .next t ∧ (∀ op rest, nextHostMove busyState = some (op, rest) → op ≠ .reset) ∧
      busyState.spboxBuilt = true) ∧
    (∃ s t : State, step s = .next t ∧ s.spboxBuilt = false ∧ nextHostMove s = some (.regRead 5, [])) ∧
    (∃ s t : State, step s = .next t ∧ s.spboxBuilt = false ∧ nextHostMove s = none ∧ fetch s = .instr (.construct 2) ∧
      t.status.err = true) ∧
    (∃ s t : State, step s = .next t ∧ s.spboxBuilt = false ∧ nextHostMove s = none ∧ fetch s = .instr (.blocksize 0)) :=
  ⟨⟨_, rfl, (fun _ _ h => nomatch h), rfl⟩,
    ⟨{ State.reset with host := [⟨.regRead 5, false⟩] }, _, rfl, rfl, rfl⟩,
    ⟨State.reset.withFetchWord 32 0x21, _, rfl, rfl, rfl, rfl, rfl⟩,
    ⟨State.reset.withFetchWord 32 0x08, _, rfl, rfl, rfl, rfl⟩⟩

/-- Two BUSY cores that differ in a schedule, running KEYSIZE of that slot. -/
theorem test_witness_ScheduleIsNotHostReadable :
    ∃ s s' t t' : State, SameButSchedules s s' ∧ s ≠ s' ∧ step s = .next t ∧ step s' = .next t' ∧ s.phase = .busy ∧
      nextHostMove s = none ∧
      ∀ c, fetch s ≠ .instr (.encrypt c) ∧ fetch s ≠ .instr (.decrypt c) ∧ fetch s ≠ .instr (.decryptbuf c) :=
  ⟨running 0x07 0 0 0 0 [thin [], unused] [], running 0x07 0 0 0 0 [thin sched1, unused] [], _, _, ⟨rfl, by decide⟩,
    fun h => absurd (congrArg State.ctxs h) (by decide), rfl, rfl, rfl, rfl, fun c => by
      have h : fetch (running 0x07 0 0 0 0 [thin [], unused] []) = .instr (.keysize 0) := by decide
      rw [h]
      simp⟩

end Sys2Proof.Tests
end

section
/-! The invariant `State.Inv` under each operation of the model: one lemma per operation, then one per command. -/

namespace Sys2Proof.Machine

/-! ### What passed checks say -/

@[simp] theorem checkConstructed_passed {c : Nat} {s : State} :
    (checkConstructed c s).1 = false ↔ (s.ctxAt c).valid = true := by
  simp [checkConstructed]

@[simp] theorem checkLevel_passed {s : State} :
    (checkLevel s).1 = false ↔ (1 ≤ s.opLevel → s.opLevel ≤ s.params.maxLevel) := by
  simp [checkLevel]

@[simp] theorem checkRange_passed {a n : Nat} {s : State} :
    (checkRange a n s).1 = false ↔ a + n ≤ s.params.bufBytes := by
  simp [checkRange]

/-! ### Slots -/

/-- The slot CONSTRUCT leaves: thin below level 1, else of its level (44_cipher_engine.md R220, R232). -/
theorem constructedCtx_inv {p : Params} {lv : Int} (hp : p.Legal) (hlv : 1 ≤ lv → lv ≤ p.maxLevel) :
    (constructedCtx p lv).Inv p where
  storage := by simp [constructedCtx, zeroSched]
  sized _ := by
    obtain ⟨-, ⟨-, hmax⟩, -⟩ := hp
    by_cases h : lv < 1
    · left
      simp [constructedCtx, sizing, h]
    · right
      have hsize : lv.toNat % 2 ^ 16 = lv.toNat := Nat.mod_eq_of_lt (by omega)
      have hrounds : (16 * lv.toNat) % 2 ^ 21 = 16 * lv.toNat := Nat.mod_eq_of_lt (by omega)
      simp only [constructedCtx, sizing, h, if_false, BitVec.toNat_ofNat, hsize, hrounds, and_true]
      omega
  unused h := by simp [constructedCtx] at h
  beyond k _ := subkey_zeroSched ..

/-- A valid slot keeps its invariant when its schedule becomes zero (44_cipher_engine.md R237). -/
theorem Ctx.Inv.clear {p : Params} {x : Ctx} (h : x.Inv p) (hv : x.valid = true) :
    Ctx.Inv p { x with sched := zeroSched p } where
  storage := by simp [zeroSched]
  sized := h.sized
  unused hn := by simp [hv] at hn
  beyond k _ := subkey_zeroSched ..

/-- A valid slot keeps its invariant when an entry below `rounds` is filled. -/
theorem Ctx.Inv.setSubkey {p : Params} {x : Ctx} {k : Nat} (sk : Subkey) (h : x.Inv p) (hv : x.valid = true)
    (hk : k < x.rounds.toNat) : (x.setSubkey k sk).Inv p where
  storage := by simpa [Ctx.setSubkey] using h.storage
  sized := h.sized
  unused hn := by simp [Ctx.setSubkey, hv] at hn
  beyond n hn := by
    have hne : n ≠ k := fun e => absurd hk (Nat.not_lt.2 (e ▸ hn))
    rw [subkey_setSubkey_other sk hne]
    exact h.beyond n hn

theorem Ctx.reset_inv (p : Params) : (Ctx.reset p).Inv p where
  storage := by simp [Ctx.reset, zeroSched]
  sized h := by simp [Ctx.reset] at h
  unused _ := rfl
  beyond k _ := subkey_zeroSched ..

/-- A selected slot that is valid is one of the N_CTX slots: past them `ctxAt` answers a reset slot. -/
theorem ctxAt_present {s : State} {c : Nat} (hv : (s.ctxAt c).valid = true) : c < s.ctxs.length := by
  by_contra hc
  simp [State.ctxAt, List.getD, hc, Ctx.reset] at hv

theorem State.Inv.ctxAt {s : State} {c : Nat} (h : s.Inv) (hv : (s.ctxAt c).valid = true) :
    (s.ctxAt c).Inv s.params :=
  h.slot _ (ctxAt_mem (ctxAt_present hv))

theorem State.Inv.built_of_valid {s : State} {c : Nat} (h : s.Inv) (hv : (s.ctxAt c).valid = true) :
    s.spboxBuilt = true :=
  h.built _ (ctxAt_mem (ctxAt_present hv)) hv

/-! ### Updates of the state -/

/-- The invariant does not read the engine, the host's registers and lists, RESULT, OVERRUN, REFUSED and `freeCount`. -/
theorem State.Inv.of_frame {s t : State} (h : s.Inv)
    (e : t = { s with
      eng := t.eng, cmd := t.cmd, a0 := t.a0, a1 := t.a1, a2 := t.a2, a3 := t.a3, result := t.result
      status := { s.status with overrun := t.status.overrun }
      refused := t.refused, host := t.host, hostReads := t.hostReads, freeCount := t.freeCount }) : t.Inv := by
  rw [e]
  exact { h with }

theorem State.Inv.addFault {s : State} {f : FaultRecord} (h : s.Inv) (hf : f ≠ .spboxUnbuilt) :
    (s.addFault f).Inv :=
  { h with
    faultsWf := insertRecord_wf f h.faultsWf
    noTorn := fun hm => (mem_insertRecord.1 hm).elim (fun e => hf e.symm) h.noTorn }

theorem State.Inv.writeByte {s : State} {a : Nat} (v : Byte) (h : s.Inv) (ha : a < s.params.bufBytes) :
    (writeByte a v s).Inv :=
  { h with
    bufWf := Memory.write_wf a v h.bufWf
    bufRange := fun x hx => (Memory.mem_write hx).elim (fun e => e ▸ ha) (h.bufRange x) }

theorem State.Inv.setCtx {s : State} {x : Ctx} (c : Nat) (h : s.Inv) (hx : x.Inv s.params)
    (hb : x.valid = true → s.spboxBuilt = true) : (s.setCtx c x).Inv :=
  { h with
    slots := (List.length_set ..).trans h.slots
    slot := fun y hy => (List.mem_or_eq_of_mem_set hy).elim (h.slot y) fun e => e ▸ hx
    built := fun y hy => (List.mem_or_eq_of_mem_set hy).elim (h.built y) fun e => e ▸ hb }

theorem State.Inv.spboxBuild {s : State} (h : s.Inv) : (spboxBuild s).Inv :=
  { h with
    built := fun _ _ _ => rfl
    table := fun _ => rfl }

@[simp] theorem ensureBuilt_spboxBuilt (s : State) : (ensureBuilt s).spboxBuilt = true := by
  unfold ensureBuilt
  split
  · assumption
  · rfl

@[simp] theorem ensureBuilt_params (s : State) : (ensureBuilt s).params = s.params := by
  unfold ensureBuilt
  split <;> rfl

theorem State.Inv.ensureBuilt {s : State} (h : s.Inv) : (ensureBuilt s).Inv := by
  unfold Machine.ensureBuilt
  split
  · exact h
  · exact h.spboxBuild

theorem State.Inv.completeOk {s : State} (h : s.Inv) : (completeOk s).Inv :=
  { h with
    code := by simp
    errDone := by simp
    busyNotDone := by simp }

theorem ErrorCode.number_range (e : ErrorCode) : 1 ≤ e.number.toNat ∧ e.number.toNat ≤ 8 := by
  cases e <;> decide

theorem State.Inv.completeError {s : State} (e : ErrorCode) (h : s.Inv) : (completeError e s).Inv :=
  { h with
    code := by simpa using e.number_range
    errDone := by simp
    busyNotDone := by simp }

theorem State.Inv.issue {s : State} (v : Word) (h : s.Inv) : (issue v s).Inv :=
  { h with
    code := by simp [Status.issued]
    errDone := by simp [Status.issued]
    busyNotDone := by simp [Status.issued] }

/-- The invariant holds after reset, for every legal choice of the parameters (70_reset_and_hazards.md R320). -/
theorem State.resetWith_inv {p : Params} (hp : p.Legal) : (State.resetWith p).Inv where
  legal := hp
  slots := List.length_replicate
  slot _ hx := List.eq_of_mem_replicate hx ▸ Ctx.reset_inv p
  built _ hx hv := by simp [List.eq_of_mem_replicate hx, Ctx.reset] at hv
  table h := by simp [State.resetWith] at h
  code := by simp [State.resetWith]
  errDone h := by simp [State.resetWith] at h
  busyNotDone h := by simp [State.resetWith] at h
  bufWf := .nil
  bufRange := by simp [State.resetWith]
  faultsWf := .nil
  noTorn := by simp [State.resetWith]

/-! ### Runs of bytes -/

theorem State.Inv.readByte {s : State} (a : Nat) (h : s.Inv) : (readByte a s).2.Inv := by
  cases hr : s.buf.read a with
  | some v => rwa [readByte_written hr]
  | none =>
    rw [readByte_unwritten hr]
    exact (h.addFault (f := .uninitRead a) (by simp)).of_frame rfl

theorem State.Inv.memRead {s : State} (a n : Nat) (h : s.Inv) : (memRead a n s).2.Inv := by
  induction n generalizing a s with
  | zero => exact h
  | succ n ih => exact ih (a + 1) (h.readByte a)

theorem State.Inv.memWrite {s : State} {a : Nat} {B : List Byte} (h : s.Inv)
    (hB : a + B.length ≤ s.params.bufBytes) : (memWrite a B s).Inv := by
  induction B generalizing a s with
  | nil => exact h
  | cons v B ih =>
    rw [List.length_cons] at hB
    exact ih (h.writeByte v (by omega)) (by simp only [writeByte_params]; omega)

theorem State.Inv.copyTail {s : State} {dst n : Nat} (src : Nat) (h : s.Inv)
    (hd : dst + n ≤ s.params.bufBytes) : (copyTail src dst n s).Inv := by
  induction n generalizing src dst s with
  | zero => exact h
  | succ n ih =>
    have hp : (Machine.readByte src s).2.params = s.params := by rw [readByte_frame]
    exact ih (src + 1) ((h.readByte src).writeByte _ (by rw [hp]; omega))
      (by simp only [writeByte_params, hp]; omega)

/-! ### Blocks -/

/-- A block operation over a built table leaves no record in FAULT (41_spbox.md R157). -/
theorem State.Inv.runBlock {s : State} (pairs : List (Subkey × Subkey)) (B : List Byte) (h : s.Inv)
    (hb : s.spboxBuilt = true) : (runBlock pairs B s).2.Inv := by
  rw [runBlock_snd_of_built hb]
  exact h.of_frame rfl

theorem State.Inv.transformBlock {s : State} {dst : Nat} (pairs : State → List (Subkey × Subkey)) (src : Nat)
    (h : s.Inv) (hb : s.spboxBuilt = true) (hd : dst + 8 ≤ s.params.bufBytes) :
    (transformBlock (fun B s => Machine.runBlock (pairs s) B s) src dst s).Inv := by
  have hr := h.memRead src 8
  have hread := memRead_frame src 8 s
  refine (hr.runBlock _ _ (by rw [hread]; exact hb)).memWrite ?_
  rw [runBlock_fst, blockBytes_length, runBlock_frame, hread]
  exact hd

theorem State.Inv.decryptBlocks {s : State} {dst n : Nat} (c src : Nat) (h : s.Inv) (hb : s.spboxBuilt = true)
    (hd : dst + 8 * n ≤ s.params.bufBytes) : (decryptBlocks c src dst n s).Inv := by
  induction n generalizing src dst s with
  | zero => exact h
  | succ n ih =>
    have hframe := transform_dec_frame c src dst s
    refine ih (src + 8) (h.transformBlock (fun s => (s.ctxAt c).decPairs) src hb (by omega)) ?_ ?_
    · rw [hframe]
      exact hb
    · rw [hframe]
      show dst + 8 + 8 * n ≤ s.params.bufBytes
      omega

/-! ### The key-schedule engine -/

/-- While the key-schedule engine fills slot `c`: the invariant, and that the slot is valid with `rounds` entries. -/
structure FillsSlot (c rounds : Nat) (s : State) : Prop where
  inv : s.Inv
  valid : (s.ctxAt c).valid = true
  rounds : (s.ctxAt c).rounds.toNat = rounds

/-- What the engine does keeps `FillsSlot` as far as it keeps the invariant. -/
theorem FillsSlot.of_schedOnly {c rounds : Nat} {s t : State} (h : FillsSlot c rounds s) (hst : SchedOnly c s t)
    (ht : t.Inv) : FillsSlot c rounds t where
  inv := ht
  valid := by rw [hst.slot]; exact h.valid
  rounds := by rw [hst.slot]; exact h.rounds

theorem FillsSlot.setKb {c rounds : Nat} {s : State} (k : KeyWords) (h : FillsSlot c rounds s) :
    FillsSlot c rounds (s.setKb k) :=
  h.of_schedOnly (.setKb c k s) (h.inv.of_frame rfl)

theorem FillsSlot.scheduleRound {c rounds n r : Nat} {s : State} (ro : Fin 16) (h : FillsSlot c rounds s)
    (hr : n + r < rounds) : FillsSlot c rounds (scheduleRound c n ro s r) := by
  refine h.of_schedOnly (.scheduleRound c n ro s r) ?_
  have hslot := (h.inv.ctxAt h.valid).setSubkey (k := n + r)
    (deriveRound (keyrot (ro + Fin.ofNat 16 r)) s.eng.kb).2 h.valid (h.rounds ▸ hr)
  exact (h.setKb _).inv.setCtx c hslot fun _ => h.inv.built_of_valid h.valid

theorem FillsSlot.scheduleBuild {c rounds n : Nat} {s : State} (ro : Fin 16) (h : FillsSlot c rounds s)
    (hn : n + 8 ≤ rounds) : FillsSlot c rounds (scheduleBuild c n ro s) := by
  refine List.foldlRecOn _ _ h fun t ht r hr => ht.scheduleRound ro ?_
  have := List.mem_range.1 hr
  omega

/-- Both passes of a chunk stay below `rounds` (43_key_schedule.md R195). -/
theorem FillsSlot.stdChunk {c rounds i : Nat} {s : State} (key : List Byte) (h : FillsSlot c rounds s)
    (hi : 8 * i + 8 ≤ rounds) : FillsSlot c rounds (stdChunk c key s i) := by
  refine ((h.setKb _).scheduleBuild 0 hi).scheduleBuild 8 ?_
  rw [h.rounds]
  omega

/-- SETKEY's derivation keeps the invariant (43_key_schedule.md R194, R195). -/
theorem State.Inv.deriveSchedule {s : State} {c : Nat} (key : List Byte) (h : s.Inv)
    (hv : (s.ctxAt c).valid = true) : (deriveSchedule c key s).Inv := by
  have hfill : FillsSlot c _ s := ⟨h, hv, rfl⟩
  have hsized := (h.ctxAt hv).sized hv
  unfold Machine.deriveSchedule
  split
  · next h8 =>
    have hrounds : (s.ctxAt c).rounds.toNat = 8 := by rw [h8]; rfl
    exact ((hfill.setKb _).scheduleBuild 0 (by omega)).inv
  · next h8 =>
    have hrounds : (s.ctxAt c).rounds.toNat ≠ 8 := fun e => h8 (BitVec.eq_of_toNat_eq e)
    refine (List.foldlRecOn _ _ hfill fun t ht i hi => ht.stdChunk key ?_).inv
    have := List.mem_range.1 hi
    omega

/-! ### Commands -/

/-- A command keeps the invariant if its effect does once the checks have passed. -/
theorem State.Inv.runCommand {s t : State} {cs : List (Bool × ErrorCode)} {f : State → State} (h : s.Inv)
    (hf : (∀ x ∈ cs, x.1 = false) → (f s).Inv) (hrun : runCommand cs f s = .next t) : t.Inv := by
  rcases runCommand_cases hrun with ⟨e, -, rfl⟩ | ⟨hpass, rfl⟩
  · exact h.completeError e
  · exact (hf hpass).completeOk

theorem State.Inv.illegalCommand {s t : State} (h : s.Inv) (hrun : illegalCommand s = .next t) : t.Inv := by
  cases hrun
  exact h.completeError .illegalCommand

section
variable {s t : State} {c : Nat} (h : s.Inv)
include h

theorem State.Inv.execConstruct (hrun : execConstruct c s = .next t) : t.Inv := by
  refine h.runCommand (fun hpass => ?_) hrun
  simp only [List.forall_mem_cons, checkLevel_passed] at hpass
  obtain ⟨-, hlevel, -⟩ := hpass
  have hslot := constructedCtx_inv h.legal hlevel
  exact h.ensureBuilt.setCtx c (by rwa [ensureBuilt_params]) fun _ => ensureBuilt_spboxBuilt s

theorem State.Inv.execSetkey (hrun : execSetkey c s = .next t) : t.Inv := by
  refine h.runCommand (fun hpass => ?_) hrun
  simp only [List.forall_mem_cons, checkConstructed_passed] at hpass
  obtain ⟨-, hvalid, -⟩ := hpass
  refine (h.memRead s.opSrc s.opLen).deriveSchedule _ ?_
  rw [memRead_frame]
  exact hvalid

theorem State.Inv.execEncrypt (hrun : execEncrypt c s = .next t) : t.Inv := by
  refine h.runCommand (fun hpass => ?_) hrun
  simp only [List.forall_mem_cons, checkConstructed_passed, checkRange_passed] at hpass
  obtain ⟨-, hvalid, -, -, hdst, -⟩ := hpass
  exact h.transformBlock (fun s => (s.ctxAt c).encPairs) s.opSrc (h.built_of_valid hvalid) hdst

theorem State.Inv.execDecrypt (hrun : execDecrypt c s = .next t) : t.Inv := by
  refine h.runCommand (fun hpass => ?_) hrun
  simp only [List.forall_mem_cons, checkConstructed_passed, checkRange_passed] at hpass
  obtain ⟨-, hvalid, -, -, hdst, -⟩ := hpass
  exact h.transformBlock (fun s => (s.ctxAt c).decPairs) s.opSrc (h.built_of_valid hvalid) hdst

theorem State.Inv.execDecryptbuf (hrun : execDecryptbuf c s = .next t) : t.Inv := by
  refine h.runCommand (fun hpass => ?_) hrun
  simp only [List.forall_mem_cons, checkConstructed_passed, checkRange_passed] at hpass
  obtain ⟨-, hvalid, -, -, hdst, -⟩ := hpass
  have hblocks := h.decryptBlocks (dst := s.opDst) (n := s.opLen / 8) c s.opSrc (h.built_of_valid hvalid) (by omega)
  refine hblocks.copyTail _ ?_
  rw [decryptBlocks_frame]
  show s.opDst + 8 * (s.opLen / 8) + s.opLen % 8 ≤ s.params.bufBytes
  omega

theorem State.Inv.execClearkey (hrun : execClearkey c s = .next t) : t.Inv := by
  refine h.runCommand (fun hpass => ?_) hrun
  simp only [List.forall_mem_cons, checkConstructed_passed] at hpass
  obtain ⟨-, hvalid, -⟩ := hpass
  exact h.setCtx c ((h.ctxAt hvalid).clear hvalid) fun _ => h.built_of_valid hvalid

theorem State.Inv.execKeysize (hrun : execKeysize c s = .next t) : t.Inv := by
  refine h.runCommand (fun _ => ?_) hrun
  exact h.of_frame rfl

theorem State.Inv.execBlocksize (hrun : execBlocksize c s = .next t) : t.Inv := by
  refine h.runCommand (fun _ => ?_) hrun
  exact h.of_frame rfl

/-- Every instruction keeps the invariant. -/
theorem State.Inv.exec {i : Instr} (hrun : exec i s = .next t) : t.Inv := by
  cases i with
  | construct c => exact h.execConstruct hrun
  | setkey c => exact h.execSetkey hrun
  | encrypt c => exact h.execEncrypt hrun
  | decrypt c => exact h.execDecrypt hrun
  | decryptbuf c => exact h.execDecryptbuf hrun
  | clearkey c => exact h.execClearkey hrun
  | keysize c => exact h.execKeysize hrun
  | blocksize c => exact h.execBlocksize (c := c) hrun
  | reserved0 c | reserved9 c | reservedA c | reservedB c | reservedC c | reservedD c | reservedE c | reservedF c =>
    exact h.illegalCommand hrun

theorem State.Inv.perform (hrun : perform s = .next t) : t.Inv := by
  rcases perform_cases hrun with ⟨i, -, hexec⟩ | ⟨-, rfl⟩
  · exact h.exec hexec
  · exact h.completeError .illegalCommand

/-! ### The host's accesses -/

theorem State.Inv.writeCmd (v : Word) : (writeCmd v s).Inv := by
  unfold Machine.writeCmd
  split
  · exact h.issue v
  · exact h.of_frame rfl

theorem State.Inv.regWrite (i : Fin 16) (v : Word) : (regWrite i v s).Inv := by
  unfold Machine.regWrite
  split
  case h_1 => exact h.writeCmd v
  case h_6 =>
    unfold Status.hostWrite
    split <;> exact h.of_frame rfl
  all_goals exact h.of_frame rfl

theorem State.Inv.bufWrite (a : Nat) (v : Byte) : (bufWrite a v s).Inv := by
  unfold Machine.bufWrite
  split
  · next ha => exact h.writeByte v ha
  · exact h.of_frame rfl

theorem State.Inv.bufRead (a : Nat) : (bufRead a s).Inv := by
  unfold Machine.bufRead
  split
  · exact (h.readByte a).of_frame rfl
  · exact h.of_frame rfl

theorem State.Inv.hostAccess (op : HostOp) : (hostAccess op s).Inv := by
  cases op with
  | regWrite i v => exact h.regWrite i v
  | regRead i => exact h.of_frame rfl
  | bufWrite a v => exact h.bufWrite a v
  | bufRead a => exact h.bufRead a
  | reset => exact (State.resetWith_inv h.legal).of_frame rfl

/-- Every step keeps the invariant: a host access, nothing, or PERFORM. -/
theorem State.Inv.step (hstep : step s = .next t) : t.Inv := by
  rcases step_cases hstep with ⟨op, rest, -, rfl⟩ | ⟨-, -, rfl⟩ | ⟨-, -, hperform⟩
  · have hrest : State.Inv { s with host := rest } := h.of_frame rfl
    exact hrest.hostAccess op
  · exact h
  · exact h.perform hperform

end

end Sys2Proof.Machine

namespace Sys2Proof

open Machine

/-- Settles O57: `State.Inv` is inductive; the base case is `State.resetWith_inv`. -/
theorem stepKeepsInv : Obligations.StepKeepsInv :=
  fun _ _ hinv hstep => hinv.step hstep

end Sys2Proof
end

section
/-! The words STATUS, CAP and BUFSZ, field by field (10_state.md R31, R32). -/

namespace Sys2Proof.Machine

/-- The bits of STATUS (10_state.md R32). -/
theorem statusWord_getLsbD (s : State) (n : Nat) :
    s.statusWord.getLsbD n =
      if n = 0 then s.busy else if n = 1 then s.status.done else if n = 2 then s.status.err
      else if n = 3 then false else if n < 8 then s.status.errCode.getLsbD (n - 4)
      else if n = 8 then s.spboxBuilt else if n = 9 then s.status.overrun else false := by
  refine (BitVec.getLsbD_append ..).trans ?_
  simp only [BitVec.getLsbD_append]
  by_cases hn : n < 10
  · interval_cases n <;> simp
  · simp (disch := omega) only [if_neg]
    exact BitVec.getLsbD_zero

theorem statusWord_errCode (s : State) : s.statusWord.extractLsb' 4 4 = s.status.errCode := by
  apply BitVec.eq_of_getLsbD_eq
  intro i hi
  rw [BitVec.getLsbD_extractLsb', statusWord_getLsbD]
  simp (disch := omega) only [if_neg, if_pos, hi, decide_true, Bool.true_and, Nat.add_sub_cancel_left]

theorem capWord_nCtx (s : State) : s.capWord.extractLsb' 0 8 = BitVec.ofNat 8 s.params.nCtx :=
  BitVec.extractLsb'_append_eq_right

theorem capWord_maxLevel (s : State) : s.capWord.extractLsb' 8 16 = BitVec.ofNat 16 s.params.maxLevel :=
  (BitVec.extractLsb'_append_eq_of_le (by decide)).trans BitVec.extractLsb'_append_eq_right

theorem capWord_high (s : State) : s.capWord.extractLsb' 24 8 = 0 :=
  (BitVec.extractLsb'_append_eq_of_le (by decide)).trans BitVec.extractLsb'_append_eq_left

/-- BUFSZ shows every legal BUF_BYTES, 2^32 as 0 (10_state.md R31). -/
theorem bufszWord_toNat {s : State} (h : s.params.bufBytes ≤ 2 ^ 32) :
    s.bufszWord.toNat = if s.params.bufBytes = 2 ^ 32 then 0 else s.params.bufBytes := by
  rw [State.bufszWord, BitVec.toNat_ofNat]
  split
  · next hmax => rw [hmax, Nat.mod_self]
  · next hmax => exact Nat.mod_eq_of_lt (Nat.lt_of_le_of_ne h hmax)

@[simp] theorem regValue_status (s : State) : s.regValue 5 = s.statusWord := rfl

@[simp] theorem regValue_cap (s : State) : s.regValue 7 = s.capWord := rfl

@[simp] theorem regValue_bufsz (s : State) : s.regValue 8 = s.bufszWord := rfl

end Sys2Proof.Machine

namespace Sys2Proof

open Machine

/-- Settles O19: each field is a case of `statusWord_getLsbD`. -/
theorem statusWordLayout : Obligations.StatusWordLayout := by
  intro s
  simp only [regValue_status, statusWord_getLsbD]
  refine ⟨by simp [State.busy], rfl, rfl, statusWord_errCode s, rfl, rfl, fun n hn => ?_⟩
  rcases hn with rfl | hn
  · rfl
  · simp (disch := omega) only [if_neg]

/-- Settles O20: legal parameters fit the fields of CAP, and only 2^32 does not fit BUFSZ. -/
theorem capAndBufszShowParameters : Obligations.CapAndBufszShowParameters := by
  intro s hlegal
  obtain ⟨⟨-, hctx⟩, ⟨-, hlevel⟩, -, hbuf⟩ := hlegal
  simp only [regValue_cap, regValue_bufsz, capWord_nCtx, capWord_maxLevel, BitVec.toNat_ofNat]
  exact ⟨Nat.mod_eq_of_lt (by omega), Nat.mod_eq_of_lt (by omega), capWord_high s, bufszWord_toNat hbuf⟩

end Sys2Proof
end

section
/-! The host's buffer port (20_memory.md R61, R66, R67). -/

namespace Sys2Proof.Machine

theorem hostAccess_bufWrite_inside {s : State} {a : Nat} (v : Byte) (ha : a < s.params.bufBytes) :
    hostAccess (.bufWrite a v) s = writeByte a v s :=
  if_pos ha

theorem hostAccess_bufRead_inside {s : State} {a : Nat} (ha : a < s.params.bufBytes) :
    hostAccess (.bufRead a) s = logRead (.buf a (readByte a s).1) (readByte a s).2 :=
  if_pos ha

theorem hostAccess_bufWrite_outside {s : State} {a : Nat} (v : Byte) (ha : s.params.bufBytes ≤ a) :
    hostAccess (.bufWrite a v) s = refuse s :=
  if_neg (Nat.not_lt.2 ha)

theorem hostAccess_bufRead_outside {s : State} {a : Nat} (ha : s.params.bufBytes ≤ a) :
    hostAccess (.bufRead a) s = refuse s :=
  if_neg (Nat.not_lt.2 ha)

end Sys2Proof.Machine

namespace Sys2Proof

open Machine

/-- Settles O22: BufWrite is `writeByte`, and BufRead of a written byte is `readByte` without a record. -/
theorem bufWriteThenRead : Obligations.BufWriteThenRead := by
  intro s a v ha
  rw [hostAccess_bufWrite_inside v ha]
  refine ⟨Memory.read_write_same s.buf a v, fun b hb => Memory.read_write_other s.buf v hb, rfl, ?_⟩
  intro t hparams hread
  rw [hostAccess_bufRead_inside (hparams ▸ ha), readByte_written hread]
  rfl

/-- Settles O23: BufRead is `readByte`, which records an unwritten byte and goes on with a free value. -/
theorem unwrittenBufReadIsRecorded : Obligations.UnwrittenBufReadIsRecorded := by
  intro s a ha hread
  rw [hostAccess_bufRead_inside ha, readByte_unwritten hread]
  exact ⟨_, _, rfl, fun f => mem_insertRecord, rfl⟩

/-- Settles O24: past the RAM both accesses are `refuse`. -/
theorem outOfRangeAccessIsRefused : Obligations.OutOfRangeAccessIsRefused :=
  fun _ _ v ha => ⟨hostAccess_bufRead_outside ha, hostAccess_bufWrite_outside v ha⟩

end Sys2Proof
end

section
/-! The order of the host's accesses and PERFORM (20_memory.md R64, R72; 44_cipher_engine.md R230). -/

namespace Sys2Proof.Machine

/-! ### When the host waits -/

/-- PERFORM comes before a first pending access that is late or held. -/
theorem nextHostMove_waiting {s : State} (hp : s.phase = .busy)
    (hq : ∀ q ∈ s.host.head?, q.early = false ∨ q.op.held = true) : nextHostMove s = none := by
  cases hh : s.host with
  | nil => exact nextHostMove_nil hh
  | cons q rest =>
    rw [nextHostMove_busy hp hh]
    rcases hq q (by simp [hh]) with hlate | hheld
    · simp [hlate]
    · simp [hheld]

theorem step_waiting {s : State} (hp : s.phase = .busy)
    (hq : ∀ q ∈ s.host.head?, q.early = false ∨ q.op.held = true) : step s = perform s :=
  step_perform hp (nextHostMove_waiting hp hq)

/-! ### What a command can do -/

/-- What the effect of a command can change before its completion (44_cipher_engine.md R242). -/
def EffectOnly (s t : State) : Prop :=
  t = { s with
    eng := t.eng, ctxs := t.ctxs, buf := t.buf, result := t.result, spbox := t.spbox
    spboxBuilt := t.spboxBuilt, faults := t.faults, freeCount := t.freeCount }

theorem EffectOnly.host {s t : State} (h : EffectOnly s t) : t.host = s.host := by rw [h]

theorem ensureBuilt_effectOnly (s : State) : EffectOnly s (ensureBuilt s) := by
  unfold ensureBuilt
  split <;> rfl

theorem EffectOnly.setCtx {s t : State} (h : EffectOnly s t) (c : Nat) (x : Ctx) : EffectOnly s (t.setCtx c x) := by
  rw [h]
  rfl

/-- The key is read, then the schedule derived: SETKEY's effect. -/
theorem setkeyEffect_effectOnly (c : Nat) (s : State) :
    EffectOnly s (deriveSchedule c (memRead s.opSrc s.opLen s).1 (memRead s.opSrc s.opLen s).2) := by
  rw [(deriveSchedule_only c _ _).frame, memRead_frame]
  rfl

theorem transformEnc_effectOnly (c src dst : Nat) (s : State) :
    EffectOnly s (transformBlock (encBlock c) src dst s) := by
  rw [transform_enc_frame]
  rfl

theorem transformDec_effectOnly (c src dst : Nat) (s : State) :
    EffectOnly s (transformBlock (decBlock c) src dst s) := by
  rw [transform_dec_frame]
  rfl

theorem copyTail_decryptBlocks_effectOnly (c src dst nb src' dst' n : Nat) (s : State) :
    EffectOnly s (copyTail src' dst' n (decryptBlocks c src dst nb s)) := by
  rw [copyTail_frame, decryptBlocks_frame]
  rfl

/-- Every command is a list of checks and an effect (60_exceptions.md R283); a reserved one is a check that always
fails (44_cipher_engine.md R240). -/
theorem exec_eq_runCommand (i : Instr) (s : State) :
    ∃ cs f, exec i s = runCommand cs f s ∧ EffectOnly s (f s) := by
  cases i with
  | construct c =>
    rw [exec, execConstruct]
    exact ⟨_, _, rfl, (ensureBuilt_effectOnly s).setCtx c _⟩
  | setkey c =>
    rw [exec, execSetkey]
    exact ⟨_, _, rfl, setkeyEffect_effectOnly c s⟩
  | encrypt c =>
    rw [exec, execEncrypt]
    exact ⟨_, _, rfl, transformEnc_effectOnly c s.opSrc s.opDst s⟩
  | decrypt c =>
    rw [exec, execDecrypt]
    exact ⟨_, _, rfl, transformDec_effectOnly c s.opSrc s.opDst s⟩
  | decryptbuf c =>
    rw [exec, execDecryptbuf]
    exact ⟨_, _, rfl, copyTail_decryptBlocks_effectOnly ..⟩
  | clearkey c =>
    rw [exec, execClearkey]
    exact ⟨_, _, rfl, rfl⟩
  | keysize c =>
    rw [exec, execKeysize]
    exact ⟨_, _, rfl, rfl⟩
  | blocksize c =>
    rw [exec, execBlocksize]
    exact ⟨_, _, rfl, rfl⟩
  | reserved0 c | reserved9 c | reservedA c | reservedB c | reservedC c | reservedD c | reservedE c | reservedF c =>
    exact ⟨[(true, .illegalCommand)], id, rfl, rfl⟩

/-- Every command completes: with an error and no effect, or with its effect. -/
theorem exec_completes (i : Instr) (s : State) :
    (∃ e, exec i s = .next (completeError e s)) ∨ ∃ u, EffectOnly s u ∧ exec i s = .next (completeOk u) := by
  obtain ⟨cs, f, hexec, heffect⟩ := exec_eq_runCommand i s
  obtain ⟨t, ht⟩ := runCommand_next cs f s
  rcases runCommand_cases ht with ⟨e, -, rfl⟩ | ⟨-, rfl⟩
  · exact .inl ⟨e, hexec.trans ht⟩
  · exact .inr ⟨f s, heffect, hexec.trans ht⟩

/-- PERFORM completes every latched word, legal or not (44_cipher_engine.md R230, R231). -/
theorem perform_completes (s : State) :
    (∃ e, perform s = .next (completeError e s)) ∨ ∃ u, EffectOnly s u ∧ perform s = .next (completeOk u) := by
  cases hf : fetch s with
  | instr i =>
    rw [perform_instr hf]
    exact exec_completes i s
  | rejected r => exact .inl ⟨_, perform_rejected hf⟩

/-- PERFORM leaves the core IDLE and the host's pending accesses as they were. -/
theorem perform_idle_host (s : State) : ∃ t, perform s = .next t ∧ t.phase = .idle ∧ t.host = s.host := by
  rcases perform_completes s with ⟨e, h⟩ | ⟨u, hu, h⟩
  · exact ⟨_, h, rfl, rfl⟩
  · exact ⟨_, h, rfl, hu.host⟩

end Sys2Proof.Machine

namespace Sys2Proof

open Machine

/-- Settles O7, by the phase and the first pending access. -/
theorem hostMovesInProgramOrder : Obligations.HostMovesInProgramOrder := by
  refine ⟨fun s hidle hnone => ?_, fun s q rest hhost hmoves => step_host ?_, fun s => step_waiting⟩
  · simp [step, nextHostMove_nil hnone, hidle]
  · rcases hmoves with hidle | ⟨hbusy, hearly, hfree⟩
    · exact nextHostMove_idle hidle hhost
    · simp [nextHostMove_busy hbusy hhost, hearly, hfree]

/-- Settles O8: a held access waits for PERFORM, which completes the command and keeps the pending accesses. -/
theorem bufferAccessIsHeldWhileBusy : Obligations.BufferAccessIsHeldWhileBusy := by
  intro s q rest hbusy hhost hbuf
  have hheld : q.op.held = true := by
    obtain ⟨a, v, hop | hop⟩ := hbuf <;> rw [hop] <;> rfl
  obtain ⟨t, hperform, hidle, hkept⟩ := perform_idle_host s
  rw [hhost] at hkept
  refine ⟨t, ?_, hidle, hkept, step_host (nextHostMove_idle hidle hkept)⟩
  rw [step_waiting hbusy (by simp [hhost, hheld]), hperform]

end Sys2Proof
end

section
/-! The block commands ENCRYPT and DECRYPT on any source bytes (20_memory.md R66, R69; 44_cipher_engine.md R234,
R235). -/

namespace Sys2Proof.Machine

/-! ### The checks -/

@[simp] theorem checkContext_passed {c : Nat} {s : State} : (checkContext c s).1 = false ↔ c < s.params.nCtx := by
  simp [checkContext]

@[simp] theorem checkBlockLength_passed {s : State} :
    (checkBlockLength s).1 = false ↔ s.opLen = 8 ∧ s.opCap = 8 := by
  simp [checkBlockLength]

section
variable {s : State} {c : Nat} (hc : c < s.params.nCtx) (hvalid : (s.ctxAt c).valid = true)
  (hlen : s.opLen = 8) (hcap : s.opCap = 8) (hsrc : s.opSrc + 8 ≤ s.params.bufBytes)
  (hdst : s.opDst + 8 ≤ s.params.bufBytes)
include hc hvalid hlen hcap hsrc hdst

/-- The checks the two block commands share. -/
theorem blockChecks_pass :
    ∀ x ∈ [checkContext c s, checkConstructed c s, checkBlockLength s, checkRange s.opSrc 8 s,
      checkRange s.opDst 8 s], x.1 = false := by
  simp [hc, hvalid, hlen, hcap, hsrc, hdst]

theorem exec_encrypt_ok :
    exec (.encrypt c) s = .next (completeOk (transformBlock (encBlock c) s.opSrc s.opDst s)) := by
  rw [exec, execEncrypt, runCommand_ok _ s (blockChecks_pass hc hvalid hlen hcap hsrc hdst)]

theorem exec_decrypt_ok :
    exec (.decrypt c) s = .next (completeOk (transformBlock (decBlock c) s.opSrc s.opDst s)) := by
  rw [exec, execDecrypt, runCommand_ok _ s (blockChecks_pass hc hvalid hlen hcap hsrc hdst)]

end

/-! ### The effect -/

/-- A block transform from `src` to `dst`, whatever the source bytes: eight bytes written, FAULT gains the unwritten
source bytes, and only the engine's registers and the count of free values change besides. -/
structure TransformsBlock (src dst : Nat) (s u : State) : Prop where
  written : ∀ j, j < 8 → (u.buf.read (dst + j)).isSome
  outside : ∀ a, ¬(dst ≤ a ∧ a < dst + 8) → u.buf.read a = s.buf.read a
  faults : ∀ f, f ∈ u.faults ↔
    f ∈ s.faults ∨ ∃ j, j < 8 ∧ f = .uninitRead (src + j) ∧ s.buf.read (src + j) = none
  frame : u = { s with eng := u.eng, buf := u.buf, faults := u.faults, freeCount := u.freeCount }

/-- One argument for both directions: the subkey pairs do not matter. -/
theorem transformBlock_transforms (pairs : State → List (Subkey × Subkey)) (src dst : Nat) {s : State}
    (hbuilt : s.spboxBuilt = true) :
    TransformsBlock src dst s (transformBlock (fun B s => runBlock (pairs s) B s) src dst s) := by
  obtain ⟨O, hO, hbuf, hfaults, -⟩ := transformBlock_spec (pairs := pairs) (src := src) (dst := dst) hbuilt
  refine ⟨fun j hj => ?_, fun a ha => ?_, fun f => ?_, transformBlock_frame pairs src dst s⟩
  · rw [hbuf, memWrite_read, if_pos (by omega)]
    simp [hO, hj]
  · rw [hbuf, memWrite_read, if_neg (by rwa [hO])]
  · rw [hfaults]
    exact mem_memRead_faults

end Sys2Proof.Machine

namespace Sys2Proof

open Machine

/-- Settles O37: the checks pass, and both transforms are cases of `transformBlock_transforms`. -/
theorem blockCommandsCompleteOnAnyBytes : Obligations.BlockCommandsCompleteOnAnyBytes := by
  intro s c i hi hc hvalid hbuilt hlen hcap hsrc hdst
  have hrun : ∃ u, exec i s = .next (completeOk u) ∧ TransformsBlock s.opSrc s.opDst s u := by
    simp only [List.mem_cons, List.not_mem_nil, or_false] at hi
    rcases hi with rfl | rfl
    · exact ⟨_, exec_encrypt_ok hc hvalid hlen hcap hsrc hdst, transformBlock_transforms _ _ _ hbuilt⟩
    · exact ⟨_, exec_decrypt_ok hc hvalid hlen hcap hsrc hdst, transformBlock_transforms _ _ _ hbuilt⟩
  obtain ⟨u, hexec, hu⟩ := hrun
  refine ⟨_, hexec, completes_ok (by rw [hu.frame]), hu.written, hu.outside, hu.faults, ?_⟩
  rw [hu.frame]
  rfl

end Sys2Proof
end

section
/-! The fields of a command word, and what a word decodes to (30_encoding.md R94, R95, R100). -/

namespace Sys2Proof

/-! ### A word is its three fields -/

@[simp] theorem opField_append (rsv : BitVec 24) (ctx op : BitVec 4) : opField (rsv ++ ctx ++ op) = op :=
  BitVec.extractLsb'_append_eq_right

@[simp] theorem rsvField_append (rsv : BitVec 24) (ctx op : BitVec 4) : rsvField (rsv ++ ctx ++ op) = rsv := by
  rw [BitVec.append_assoc]
  exact BitVec.extractLsb'_append_eq_left

theorem word_of_fields (w : Word) : rsvField w ++ ctxField w ++ opField w = w := by
  unfold rsvField ctxField opField
  rw [BitVec.extractLsb'_append_extractLsb'_eq_extractLsb' (show 8 = 4 + 4 from rfl),
    BitVec.extractLsb'_append_extractLsb'_eq_extractLsb' (show 4 = 0 + 4 from rfl)]
  exact BitVec.extractLsb'_eq_self

/-! ### Decoding, field by field -/

/-- A word decodes to `i` when RSV is 0 and the other two fields are those of `i`. -/
theorem decode_eq_instr_iff {w : Word} {i : Instr} :
    decode w = .instr i ↔ rsvField w = 0 ∧ opField w = i.op ∧ (ctxField w).toNat = i.ctx := by
  rw [decode]
  split
  next hrsv =>
    rw [Decoded.instr.injEq]
    constructor
    · rintro rfl
      simp [hrsv]
    · rintro ⟨-, hop, hctx⟩
      rw [hop, hctx, instrOfOp_op_ctx]
  next hrsv => exact iff_of_false Decoded.noConfusion fun h => hrsv h.1

/-! ### Decoding by mask -/

/-- The decoder's mask leaves RSV and OP (30_encoding.md R95). -/
theorem and_mask_eq (w : Word) : w &&& 0xFFFFFF0F#32 = rsvField w ++ 0#4 ++ opField w := by
  have hmask : 0xFFFFFF0F#32 = BitVec.allOnes 24 ++ 0#4 ++ BitVec.allOnes 4 := rfl
  conv_lhs => rw [← word_of_fields w, hmask, BitVec.and_append, BitVec.and_append]
  rw [BitVec.and_allOnes, BitVec.and_allOnes, BitVec.and_zero]

theorem op_setWidth_eq (op : BitVec 4) : op.setWidth 32 = 0#24 ++ 0#4 ++ op := by
  rw [BitVec.setWidth_eq_append (by decide)]
  rfl

theorem and_mask_eq_op_iff {w : Word} {op : BitVec 4} :
    w &&& 0xFFFFFF0F#32 = op.setWidth 32 ↔ rsvField w = 0 ∧ opField w = op := by
  rw [and_mask_eq, op_setWidth_eq]
  constructor
  · intro h
    have hrsv := congrArg rsvField h
    have hop := congrArg opField h
    rw [rsvField_append, rsvField_append] at hrsv
    rw [opField_append, opField_append] at hop
    exact ⟨hrsv, hop⟩
  · rintro ⟨hrsv, hop⟩
    rw [hrsv, hop]
    rfl

/-- CTX is bits 7:4 read as a number (30_encoding.md R94). -/
theorem shift_and_toNat (w : Word) : ((w >>> 4) &&& 0xF#32).toNat = (ctxField w).toNat := by
  rw [ctxField, BitVec.extractLsb'_toNat, BitVec.toNat_and, BitVec.toNat_ushiftRight]
  exact Nat.and_two_pow_sub_one_eq_mod _ 4

/-- Settles O1: the fields of an encoded word are those of its instruction. -/
theorem decodeOfEncode : Obligations.DecodeOfEncode := by
  intro i hi
  obtain ⟨hop, hrsv, hctx⟩ := Laws.EncodeFields.fields_of_append i.ctx i.op
  exact decode_eq_instr_iff.2 ⟨hrsv, hop, hctx hi⟩

/-- Settles O2: a word is its three fields, and decoding fixes each of them. -/
theorem encodeOfDecode : Obligations.EncodeOfDecode := by
  intro w i h
  obtain ⟨hrsv, hop, hctx⟩ := decode_eq_instr_iff.1 h
  constructor
  · rw [Instr.WellFormed, ← hctx]
    exact (ctxField w).isLt
  · calc encode i = rsvField w ++ ctxField w ++ opField w := by
          rw [encode, ← hctx, ← hop, hrsv, BitVec.ofNat_toNat, BitVec.setWidth_eq]
      _ = w := word_of_fields w

/-- Settles O3: the mask test says that RSV is 0 and what OP is. -/
theorem maskSelectsCommand : Obligations.MaskSelectsCommand := by
  refine ⟨fun w i => ?_, fun c => rfl⟩
  rw [decode_eq_instr_iff, and_mask_eq_op_iff, shift_and_toNat, and_assoc, eq_comm (a := i.ctx)]

/-- Settles O4: each word but the last is the encoding of its command; the last has RSV ≠ 0. -/
theorem writtenOutWordsDecode : Obligations.WrittenOutWordsDecode :=
  ⟨decodeOfEncode (.construct 2) (by decide), decodeOfEncode (.setkey 0) (by decide),
    decodeOfEncode (.decryptbuf 1) (by decide), decodeOfEncode (.blocksize 15) (by decide),
    decodeOfEncode (.reservedF 3) (by decide), if_neg (by decide)⟩

end Sys2Proof
end

section
/-! The register port (30_encoding.md R90 to R93, R105) and illegal command words (R96). -/

namespace Sys2Proof.Machine

theorem regName_reserved : ∀ i : Fin 16, 9 ≤ i.val → regName i = .reserved := by decide

theorem Status.hostWrite_eq (st : Status) (v : Word) :
    st.hostWrite v = { st with overrun := st.overrun && !v.getLsbD 9 } := by
  unfold Status.hostWrite
  cases v.getLsbD 9 <;> simp

/-- A CMD write to an IDLE core is ISSUE, whatever the word (44_cipher_engine.md R228). -/
theorem regWrite_cmd_idle {s : State} (v : Word) (hidle : s.phase = .idle) : regWrite 0 v s = issue v s := by
  show writeCmd v s = issue v s
  simp [writeCmd, hidle]

/-- OP 0x0 and 0x9 to 0xF are the reserved commands (44_cipher_engine.md R240). -/
theorem exec_reserved {i : Instr} (hop : i.op = 0 ∨ 9 ≤ i.op.toNat) (s : State) :
    exec i s = .next (completeError .illegalCommand s) := by
  cases i with
  | construct c | setkey c | encrypt c | decrypt c | decryptbuf c | clearkey c | keysize c | blocksize c =>
    simp [Instr.op] at hop
  | reserved0 c | reserved9 c | reservedA c | reservedB c | reservedC c | reservedD c | reservedE c | reservedF c => rfl

/-- PERFORM of an illegal word is error completion: a word with RSV ≠ 0 is no command, the others are reserved. -/
theorem perform_illegal {s : State}
    (hw : rsvField s.eng.lcmd ≠ 0 ∨ opField s.eng.lcmd = 0 ∨ 9 ≤ (opField s.eng.lcmd).toNat) :
    perform s = .next (completeError .illegalCommand s) := by
  cases hf : fetch s with
  | rejected r => exact perform_rejected hf
  | instr i =>
    obtain ⟨hrsv, hop, -⟩ := decode_eq_instr_iff.1 hf
    rw [hop] at hw
    rw [perform_instr hf, exec_reserved (hw.resolve_left (not_not_intro hrsv))]

end Sys2Proof.Machine

namespace Sys2Proof

open Machine

/-- Settles O5: every word is issued, and PERFORM of an illegal one is error completion. -/
theorem illegalWordIsIssuedThenFails : Obligations.IllegalWordIsIssuedThenFails := by
  intro w hw
  constructor
  · intro s hidle
    rw [regWrite_cmd_idle w hidle]
    exact ⟨rfl, rfl⟩
  · rintro s hbusy rfl hmove
    exact ⟨_, (step_perform hbusy hmove).trans (perform_illegal hw), completes_error .illegalCommand s,
      onlyOutcome_error .illegalCommand s⟩

/-- Settles O16: indices 9 to 15 name no register. -/
theorem reservedIndicesReadZero : Obligations.ReservedIndicesReadZero := by
  intro s i v hi
  simp [State.regValue, regWrite, regName_reserved i hi]

/-- Settles O17: STATUS is written by `Status.hostWrite`, the other three not at all. -/
theorem readOnlyRegistersIgnoreWrites : Obligations.ReadOnlyRegistersIgnoreWrites := by
  refine ⟨fun s v => ⟨rfl, rfl, rfl⟩, fun s v => ?_⟩
  rw [← Status.hostWrite_eq]
  rfl

/-- Settles O18: each of the four indices names one register, written and read alike. -/
theorem operandRegistersHoldWrites : Obligations.OperandRegistersHoldWrites :=
  fun _ _ => ⟨⟨rfl, rfl⟩, ⟨rfl, rfl⟩, ⟨rfl, rfl⟩, ⟨rfl, rfl⟩⟩

/-- Settles O21: RegRead only appends to the values received. -/
theorem registerReadOnlyDelivers : Obligations.RegisterReadOnlyDelivers :=
  ⟨fun _ _ => rfl, fun _ => ⟨rfl, rfl⟩⟩

end Sys2Proof
end

section
/-! Maps that distribute over XOR are fixed by their values on the single bits. -/

namespace Sys2Proof.Machine

/-- `f` is linear over GF(2). -/
def XorLinear {v w : Nat} (f : BitVec v → BitVec w) : Prop := ∀ x y, f (x ^^^ y) = f x ^^^ f y

theorem xor_xor_xor_comm {w : Nat} (a b c d : BitVec w) : a ^^^ b ^^^ (c ^^^ d) = a ^^^ c ^^^ (b ^^^ d) := by
  ac_rfl

/-- The single bits span under XOR; the induction is on the number of low bits that may be set. -/
theorem xor_induction {w : Nat} {P : BitVec w → Prop} (zero : P 0) (xor : ∀ x y, P x → P y → P (x ^^^ y))
    (bit : ∀ i < w, P (BitVec.twoPow w i)) (x : BitVec w) : P x := by
  have low : ∀ n ≤ w, ∀ y : BitVec w, (∀ i, n ≤ i → y.getLsbD i = false) → P y := by
    intro n
    induction n with
    | zero =>
      intro _ y hy
      rwa [BitVec.eq_of_getLsbD_eq fun i _ => (hy i i.zero_le).trans BitVec.getLsbD_zero.symm]
    | succ n ih =>
      intro hn y hy
      by_cases hbit : y.getLsbD n
      · rw [← BitVec.xor_zero (x := y), ← BitVec.xor_self (x := BitVec.twoPow w n), ← BitVec.xor_assoc]
        refine xor _ _ (ih (by omega) _ fun i hi => ?_) (bit n hn)
        rcases hi.eq_or_lt with rfl | hlt
        · simp [hbit, Nat.lt_of_succ_le hn]
        · simp [hy i hlt, hlt.ne]
      · refine ih (by omega) y fun i hi => ?_
        rcases hi.eq_or_lt with rfl | hlt
        · simpa using hbit
        · exact hy i hlt
  exact low w le_rfl x fun i hi => BitVec.getLsbD_of_ge x i hi

namespace XorLinear

variable {u v w : Nat} {f g : BitVec v → BitVec w}

theorem map_zero (hf : XorLinear f) : f 0 = 0 := by
  simpa using hf 0 0

theorem comp {h : BitVec u → BitVec v} (hf : XorLinear f) (hh : XorLinear h) : XorLinear (f ∘ h) :=
  fun x y => (congrArg f (hh x y)).trans (hf _ _)

theorem iterate {h : BitVec v → BitVec v} (hh : XorLinear h) (n : Nat) : XorLinear h^[n] := by
  induction n with
  | zero => exact fun _ _ => rfl
  | succ n ih => exact ih.comp hh

/-- Linear maps that agree on the single bits are equal. -/
theorem ext (hf : XorLinear f) (hg : XorLinear g)
    (h : ∀ i < v, f (BitVec.twoPow v i) = g (BitVec.twoPow v i)) : f = g := by
  funext x
  induction x using xor_induction with
  | zero => rw [hf.map_zero, hg.map_zero]
  | xor x y hx hy => rw [hf, hg, hx, hy]
  | bit i hi => exact h i hi

/-- Maps linear in each of two arguments that agree on the pairs of single bits are equal. -/
theorem ext₂ {f g : BitVec u → BitVec v → BitVec w} (hfl : ∀ y, XorLinear (f · y)) (hfr : ∀ x, XorLinear (f x))
    (hgl : ∀ y, XorLinear (g · y)) (hgr : ∀ x, XorLinear (g x))
    (h : ∀ i < u, ∀ j < v, f (BitVec.twoPow u i) (BitVec.twoPow v j) = g (BitVec.twoPow u i) (BitVec.twoPow v j)) :
    f = g := by
  have hrow : ∀ i < u, f (BitVec.twoPow u i) = g (BitVec.twoPow u i) := fun i hi => (hfr _).ext (hgr _) (h i hi)
  funext x y
  exact congrFun ((hfl y).ext (hgl y) fun i hi => congrFun (hrow i hi) y) x

end XorLinear

end Sys2Proof.Machine
end

section
/-! The GF multiplier (40_galois_field.md R120 to R125): its eight-iteration form, its two linear arguments and what it
does with single bits. -/

namespace Sys2Proof.Machine

/-! ### One iteration -/

/-- Shift A and reduce it once: multiplication by x. -/
def gfDouble (m A : BitVec 9) : BitVec 9 := if 256 ≤ (A <<< 1).toNat then (A <<< 1) ^^^ m else A <<< 1

/-- `x` if the bit `c` is set, else nothing. -/
def gate {w : Nat} (c : Bool) (x : BitVec w) : BitVec w := if c then x else 0

theorem xor_gate {w : Nat} (c : Bool) (x y : BitVec w) : x ^^^ gate c y = if c then x ^^^ y else x := by
  cases c
  · exact BitVec.xor_zero
  · rfl

theorem gate_xor_left {w : Nat} (c d : Bool) (x : BitVec w) : gate (c ^^ d) x = gate c x ^^^ gate d x := by
  cases c
  · simp [gate]
  · cases d
    · exact BitVec.xor_zero.symm
    · exact BitVec.xor_self.symm

theorem gate_xorLinear {w : Nat} (c : Bool) : XorLinear (gate (w := w) c) := by
  intro x y
  cases c
  · exact BitVec.xor_zero.symm
  · rfl

/-- Bit 8 of the shifted A decides on the reduction (40_galois_field.md R123). -/
theorem gfDouble_eq (m A : BitVec 9) : gfDouble m A = A <<< 1 ^^^ gate (A.getLsbD 7) m := by
  have hmsb : A.getLsbD 7 = decide (256 ≤ (A <<< 1).toNat) := by
    refine Eq.trans ?_ (BitVec.msb_eq_decide (A <<< 1))
    simp [BitVec.msb_eq_getLsbD_last]
  simp only [gfDouble, xor_gate, hmsb, decide_eq_true_iff]

theorem gfDouble_xorLinear (m : BitVec 9) : XorLinear (gfDouble m) := by
  intro A A'
  simp only [gfDouble_eq, BitVec.shiftLeft_xor_distrib, BitVec.getLsbD_xor, gate_xor_left]
  exact xor_xor_xor_comm ..

@[simp] theorem gfMulLoop_zero_right (m : BitVec 9) (n : Nat) (acc : Byte) (A : BitVec 9) :
    gfMulLoop m n acc A 0 = acc := by
  cases n <;> rfl

/-- Once B is 0 an iteration changes nothing that is returned (40_galois_field.md R122). -/
theorem gfMulLoop_succ (m : BitVec 9) (n : Nat) (acc : Byte) (A : BitVec 9) (B : Byte) :
    gfMulLoop m (n + 1) acc A B =
      gfMulLoop m n (acc ^^^ gate (B.getLsbD 0) (A.setWidth 8)) (gfDouble m A) (B >>> 1) := by
  rw [xor_gate]
  by_cases hB : B = 0
  · subst hB
    exact (gfMulLoop_zero_right ..).symm
  · exact if_neg hB

/-! ### The eight-iteration form -/

/-- Iteration `i` of the fixed-iteration form: the accumulator and A (40_galois_field.md R122). -/
def gfMulIteration (m : BitVec 9) (b : Byte) (x : Byte × BitVec 9) (i : Nat) : Byte × BitVec 9 :=
  (if b.getLsbD i then x.1 ^^^ x.2.setWidth 8 else x.1, gfDouble m x.2)

/-- From iteration `i` on, B is `b` shifted right by `i`. -/
theorem gfMulLoop_eq_foldl (m : BitVec 9) (b : Byte) (n i : Nat) (acc : Byte) (A : BitVec 9) :
    gfMulLoop m n acc A (b >>> i) = ((List.range' i n).foldl (gfMulIteration m b) (acc, A)).1 := by
  induction n generalizing i acc A with
  | zero => rfl
  | succ n ih =>
    rw [gfMulLoop_succ, ← BitVec.shiftRight_add, ih, xor_gate, BitVec.getLsbD_ushiftRight, Nat.add_zero]
    rfl

/-! ### Linearity -/

theorem gfMulLoop_xor_left (m : BitVec 9) (n : Nat) (acc acc' : Byte) (A A' : BitVec 9) (B : Byte) :
    gfMulLoop m n (acc ^^^ acc') (A ^^^ A') B = gfMulLoop m n acc A B ^^^ gfMulLoop m n acc' A' B := by
  induction n generalizing acc acc' A A' B with
  | zero => rfl
  | succ n ih =>
    simp only [gfMulLoop_succ]
    rw [← ih, ← gfDouble_xorLinear, BitVec.setWidth_xor, gate_xorLinear, xor_xor_xor_comm]

theorem gfMulLoop_xor_right (m : BitVec 9) (n : Nat) (acc acc' : Byte) (A : BitVec 9) (B B' : Byte) :
    gfMulLoop m n (acc ^^^ acc') A (B ^^^ B') = gfMulLoop m n acc A B ^^^ gfMulLoop m n acc' A B' := by
  induction n generalizing acc acc' A B B' with
  | zero => rfl
  | succ n ih =>
    simp only [gfMulLoop_succ]
    rw [← ih, BitVec.ushiftRight_xor_distrib, BitVec.getLsbD_xor, gate_xor_left, xor_xor_xor_comm]

theorem gfMul_xorLinear_left (b : Byte) (m : BitVec 9) : XorLinear (gfMul · b m) := by
  intro a a'
  simp only [gfMul, BitVec.setWidth_xor]
  exact gfMulLoop_xor_left m 8 0 0 ..

theorem gfMul_xorLinear_right (a : Byte) (m : BitVec 9) : XorLinear (gfMul a · m) :=
  fun b b' => gfMulLoop_xor_right m 8 0 0 _ b b'

/-! ### Single bits -/

/-- x^n modulo m, as the loop computes it. -/
def gfMonomial (m : BitVec 9) (n : Nat) : BitVec 9 := (gfDouble m)^[n] 1

theorem gfMonomial_succ (m : BitVec 9) (n : Nat) : gfMonomial m (n + 1) = gfDouble m (gfMonomial m n) :=
  Function.iterate_succ_apply' ..

theorem gfDouble_iterate_gfMonomial (m : BitVec 9) (k n : Nat) :
    (gfDouble m)^[k] (gfMonomial m n) = gfMonomial m (k + n) :=
  (Function.iterate_add_apply ..).symm

theorem twoPow_ushiftRight_one {w i : Nat} (hi : i + 1 < w) :
    BitVec.twoPow w (i + 1) >>> 1 = BitVec.twoPow w i := by
  apply BitVec.eq_of_getLsbD_eq
  intro j _
  simp [hi, Nat.lt_of_succ_lt hi, Nat.add_comm 1 j]

theorem gfMulLoop_twoPow (m : BitVec 9) {n j : Nat} (hj : j < n) (hj8 : j < 8) (acc : Byte) (A : BitVec 9) :
    gfMulLoop m n acc A (BitVec.twoPow 8 j) = acc ^^^ ((gfDouble m)^[j] A).setWidth 8 := by
  induction j generalizing n acc A with
  | zero =>
    obtain ⟨n, rfl⟩ := Nat.exists_eq_add_of_lt hj
    rw [gfMulLoop_succ]
    exact gfMulLoop_zero_right ..
  | succ j ih =>
    obtain ⟨n, rfl⟩ := Nat.exists_eq_add_of_lt (Nat.zero_lt_of_lt hj)
    rw [gfMulLoop_succ, twoPow_ushiftRight_one hj8, ih (by omega) (by omega), Function.iterate_succ_apply]
    simp [gate]

/-- Multiplication by x^j is `j` iterations on A. -/
theorem gfMul_twoPow (a : Byte) (m : BitVec 9) {j : Nat} (hj : j < 8) :
    gfMul a (BitVec.twoPow 8 j) m = ((gfDouble m)^[j] (a.setWidth 9)).setWidth 8 :=
  (gfMulLoop_twoPow m hj hj 0 _).trans BitVec.zero_xor

/-- Below degree 8 nothing is reduced. -/
theorem gfMonomial_of_lt (m : BitVec 9) {i : Nat} (hi : i < 8) : gfMonomial m i = (BitVec.twoPow 8 i).setWidth 9 := by
  induction i with
  | zero => rfl
  | succ i ih =>
    have hgate : ∀ i < 7, (BitVec.twoPow 8 i).getLsbD 7 = false := by decide
    have hshift : ∀ i < 7, (BitVec.twoPow 8 i).setWidth 9 <<< 1 = (BitVec.twoPow 8 (i + 1)).setWidth 9 := by decide
    rw [gfMonomial_succ, ih (by omega), gfDouble_eq, BitVec.getLsbD_setWidth, hgate i (by omega), hshift i (by omega)]
    exact BitVec.xor_zero

/-- A product of single bits is a monomial. -/
theorem gfMul_twoPow_twoPow (m : BitVec 9) {i j : Nat} (hi : i < 8) (hj : j < 8) :
    gfMul (BitVec.twoPow 8 i) (BitVec.twoPow 8 j) m = (gfMonomial m (j + i)).setWidth 8 := by
  rw [gfMul_twoPow _ m hj, ← gfMonomial_of_lt m hi, gfDouble_iterate_gfMonomial]

theorem gfMul_comm (a b : Byte) (m : BitVec 9) : gfMul a b m = gfMul b a m := by
  have left (b : Byte) := gfMul_xorLinear_left b m
  have right (a : Byte) := gfMul_xorLinear_right a m
  refine congrFun₂ (XorLinear.ext₂ left right right left fun i hi j hj => ?_) a b
  rw [gfMul_twoPow_twoPow m hi hj, gfMul_twoPow_twoPow m hj hi, Nat.add_comm]

@[simp] theorem gfMul_zero (a : Byte) (m : BitVec 9) : gfMul a 0#8 m = 0#8 := rfl

@[simp] theorem gfMul_one (a : Byte) (m : BitVec 9) : gfMul a 1#8 m = a :=
  (gfMul_twoPow a m (j := 0) (by decide)).trans (BitVec.setWidth_setWidth_of_le a (by decide))

@[simp] theorem zero_gfMul (b : Byte) (m : BitVec 9) : gfMul 0#8 b m = 0#8 :=
  (gfMul_comm 0 b m).trans (gfMul_zero b m)

@[simp] theorem one_gfMul (b : Byte) (m : BitVec 9) : gfMul 1#8 b m = b :=
  (gfMul_comm 1 b m).trans (gfMul_one b m)

end Sys2Proof.Machine

namespace Sys2Proof

open Machine

/-- Settles O44: the loop over the bits of `b` from bit 0. -/
theorem gfMulRunsEightIterations : Obligations.GfMulRunsEightIterations := by
  intro a b m
  rw [List.range_eq_range']
  exact gfMulLoop_eq_foldl m b 8 0 0 _

/-- Settles O45: both orders of a product are linear in both arguments and agree on single bits. -/
theorem gfMulCornersAndCommutes : Obligations.GfMulCornersAndCommutes :=
  fun a b m _ => ⟨gfMul_zero a m, zero_gfMul b m, gfMul_one a m, one_gfMul b m, gfMul_comm a b m⟩

/-- Settles O47: each port answers under a check of its domain. -/
theorem gfPortsRefuseOutsideDomain : Obligations.GfPortsRefuseOutsideDomain := by
  intro a b m
  constructor
  · simp only [gfMulPort, ite_eq_right_iff, reduceCtorEq, imp_false]
    omega
  · simp only [gfExp7Port, ite_eq_right_iff, reduceCtorEq, imp_false]
    omega

end Sys2Proof
end

section
/-! The b^7 unit (40_galois_field.md R126 to R128). Multiplication is associative for a modulus of degree 8, so
(b^7)^73 = b^511, and b^256 = b for the sixteen moduli: b^511 = b^256 · b^255 = b · b^255 = b. -/

namespace Sys2Proof.Machine

/-! ### Associativity -/

section
variable {m : BitVec 9} (hm : m.getLsbD 8 = true)
include hm

/-- A reduced A fits in eight bits (40_galois_field.md R123). -/
theorem gfDouble_fits (A : BitVec 9) : (gfDouble m A).getLsbD 8 = false := by
  rw [gfDouble_eq, BitVec.getLsbD_xor, BitVec.getLsbD_shiftLeft]
  cases A.getLsbD 7
  · simp [gate]
  · simp [gate, hm]

theorem gfMonomial_fits (n : Nat) : (gfMonomial m n).getLsbD 8 = false := by
  cases n with
  | zero => exact BitVec.getLsbD_one
  | succ n =>
    rw [gfMonomial_succ]
    exact gfDouble_fits hm _

theorem gfMonomial_setWidth (n : Nat) : ((gfMonomial m n).setWidth 8).setWidth 9 = gfMonomial m n := by
  apply BitVec.eq_of_getLsbD_eq
  intro i hi
  rcases (Nat.lt_succ_iff.1 hi).lt_or_eq with hi8 | rfl
  · simp [hi, hi8]
  · rw [gfMonomial_fits hm, BitVec.getLsbD_setWidth, BitVec.getLsbD_setWidth]
    rfl

theorem gfMul_gfMonomial_twoPow (n : Nat) {j : Nat} (hj : j < 8) :
    gfMul ((gfMonomial m n).setWidth 8) (BitVec.twoPow 8 j) m = (gfMonomial m (j + n)).setWidth 8 := by
  rw [gfMul_twoPow _ m hj, gfMonomial_setWidth hm, gfDouble_iterate_gfMonomial]

/-- On single bits both products are x^(i+j+k). -/
theorem gfMul_assoc_twoPow {i j k : Nat} (hi : i < 8) (hj : j < 8) (hk : k < 8) :
    gfMul (gfMul (.twoPow 8 i) (.twoPow 8 j) m) (.twoPow 8 k) m =
      gfMul (.twoPow 8 i) (gfMul (.twoPow 8 j) (.twoPow 8 k) m) m := by
  rw [gfMul_comm (.twoPow 8 i) (gfMul ..), gfMul_twoPow_twoPow m hi hj, gfMul_twoPow_twoPow m hj hk,
    gfMul_gfMonomial_twoPow hm _ hk, gfMul_gfMonomial_twoPow hm _ hi, ← Nat.add_assoc, Nat.add_comm]

/-- Both sides are linear in each of the three arguments. -/
theorem gfMul_assoc (a b c : Byte) : gfMul (gfMul a b m) c m = gfMul a (gfMul b c m) m := by
  have left (b : Byte) := gfMul_xorLinear_left b m
  have right (a : Byte) := gfMul_xorLinear_right a m
  refine congrFun₂ (XorLinear.ext₂ (fun b => (left c).comp (left b)) (fun a => (left c).comp (right a))
    (fun b => left (gfMul b c m)) (fun a => (right a).comp (left c)) fun i hi j hj => ?_) a b
  exact congrFun ((right _).ext ((right _).comp (right _)) fun k hk => gfMul_assoc_twoPow hm hi hj hk) c

end

/-! ### Powers -/

/-- b^n modulo m. -/
def gfPow (m : BitVec 9) (b : Byte) (n : Nat) : Byte := (gfMul b · m)^[n] 1

/-- The squaring map. -/
def gfSquare (m : BitVec 9) (b : Byte) : Byte := gfMul b b m

theorem gfPow_succ (m : BitVec 9) (b : Byte) (n : Nat) : gfPow m b (n + 1) = gfMul b (gfPow m b n) m :=
  Function.iterate_succ_apply' ..

@[simp] theorem gfPow_zero (m : BitVec 9) (b : Byte) : gfPow m b 0 = 1#8 := rfl

@[simp] theorem gfPow_one (m : BitVec 9) (b : Byte) : gfPow m b 1 = b := by
  rw [gfPow_succ, gfPow_zero, gfMul_one]

theorem gfPow_two (m : BitVec 9) (b : Byte) : gfPow m b 2 = gfSquare m b := by
  rw [gfPow_succ, gfPow_one, gfSquare]

/-- The two cross terms of (a + b)^2 cancel. -/
theorem gfSquare_xorLinear (m : BitVec 9) : XorLinear (gfSquare m) := by
  intro a b
  have hleft := gfMul_xorLinear_left (a ^^^ b) m a b
  have hright (c : Byte) := gfMul_xorLinear_right c m a b
  calc gfMul (a ^^^ b) (a ^^^ b) m
      = gfMul a a m ^^^ gfMul a b m ^^^ (gfMul b a m ^^^ gfMul b b m) := by
        rw [← hright a, ← hright b]
        exact hleft
    _ = gfMul a a m ^^^ gfMul b b m := by
        rw [gfMul_comm b a, BitVec.xor_assoc, ← BitVec.xor_assoc (gfMul a b m), BitVec.xor_self, BitVec.zero_xor]

section
variable {m : BitVec 9} (hm : m.getLsbD 8 = true) (b : Byte)
include hm

theorem gfPow_gfMul (k : Nat) (y : Byte) : gfMul (gfPow m b k) y m = (gfMul b · m)^[k] y := by
  induction k with
  | zero => exact one_gfMul y m
  | succ k ih => rw [gfPow_succ, gfMul_assoc hm, ih, Function.iterate_succ_apply']

theorem gfPow_add (k n : Nat) : gfPow m b (k + n) = gfMul (gfPow m b k) (gfPow m b n) m := by
  rw [gfPow_gfMul hm]
  exact Function.iterate_add_apply ..

theorem gfPow_gfPow (k n : Nat) : gfPow m (gfPow m b k) n = gfPow m b (k * n) := by
  have hmul : (gfMul (gfPow m b k) · m) = (gfMul b · m)^[k] := funext (gfPow_gfMul hm b k)
  rw [gfPow, hmul, ← Function.iterate_mul, gfPow]

theorem gfSquare_iterate (k : Nat) : (gfSquare m)^[k] b = gfPow m b (2 ^ k) := by
  induction k with
  | zero => exact (gfPow_one m b).symm
  | succ k ih => rw [Function.iterate_succ_apply', ih, ← gfPow_two, gfPow_gfPow hm, Nat.pow_succ]

theorem gfExp7_eq_gfPow : gfExp7 b m = gfPow m b 7 := by
  by_cases hb : b = 0
  · subst hb
    simp [gfExp7, gfPow_succ]
  · rw [gfExp7, if_neg hb]
    simp [gfPow_succ, gfMul_assoc hm]

end

/-! ### The sixteen moduli -/

theorem smod_bit8 : ∀ t row, (smod t row).getLsbD 8 = true := by decide

/-- Eight squarings fix the single bits. -/
theorem gfSquare_iterate_twoPow :
    ∀ t row, ∀ i < 8, (gfSquare (smod t row))^[8] (BitVec.twoPow 8 i) = BitVec.twoPow 8 i := by
  decide +kernel

theorem gfPow_256 (t row : Fin 4) (b : Byte) : gfPow (smod t row) b 256 = b :=
  (gfSquare_iterate (smod_bit8 t row) b 8).symm.trans <|
    congrFun (((gfSquare_xorLinear _).iterate 8).ext (g := id) (fun _ _ => rfl) (gfSquare_iterate_twoPow t row)) b

theorem gfPow_511 (t row : Fin 4) (b : Byte) : gfPow (smod t row) b 511 = b := by
  rw [gfPow_add (smod_bit8 t row) b 256 255, gfPow_256, ← gfPow_succ, gfPow_256]

/-- The 73rd power undoes the b^7 unit. -/
theorem gfPow_gfExp7 (t row : Fin 4) (b : Byte) : gfPow (smod t row) (gfExp7 b (smod t row)) 73 = b := by
  rw [gfExp7_eq_gfPow (smod_bit8 t row), gfPow_gfPow (smod_bit8 t row), gfPow_511]

end Sys2Proof.Machine

namespace Sys2Proof

open Machine

/-- Settles O46: the unit has a left inverse for each modulus. -/
theorem gfExp7IsInjective : Obligations.GfExp7IsInjective := by
  intro t row
  refine ⟨fun a b h => ?_, rfl, by simp [gfExp7]⟩
  rw [← gfPow_gfExp7 t row a, h, gfPow_gfExp7]

end Sys2Proof
end

section
/-! The 32-bit permutation (41_spbox.md R145, R146): each input bit goes to an output bit of its own. -/

namespace Sys2Proof.Machine

/-- The output bit of input bit `j`: the one set in PBOX[j] (41_spbox.md R142). -/
def pboxPos (j : Fin 32) : Nat := (pboxTable.getD j 0).toNat.log2

theorem pboxTable_eq : pboxTable = List.ofFn fun j => BitVec.twoPow 32 (pboxPos j) := by decide

theorem pboxTable_zipIdx :
    pboxTable.zipIdx = (List.finRange 32).map fun j => (BitVec.twoPow 32 (pboxPos j), j.val) := by
  decide

theorem pboxPos_lt : ∀ j, pboxPos j < 32 := by decide

theorem pboxPos_injective : Function.Injective pboxPos := by decide

/-- An output bit is set when it was before or when a set input bit has an entry that holds it. -/
theorem permFrom_getLsbD {x : Word} {j k : Nat} {ps : List Word} {res : Word} :
    (permFrom x j ps res).getLsbD k = true ↔
      res.getLsbD k = true ∨ ∃ q ∈ ps.zipIdx j, x.getLsbD q.2 = true ∧ q.1.getLsbD k = true := by
  induction ps generalizing j res with
  | nil => simp [permFrom]
  | cons p ps ih =>
    rw [permFrom, ih, List.zipIdx_cons, List.exists_mem_cons_iff, ← or_assoc]
    cases x.getLsbD j <;> simp

/-- The bit form of PERM32. -/
theorem perm32_getLsbD {x : Word} {k : Nat} :
    (perm32 x).getLsbD k = true ↔ ∃ j : Fin 32, x.getLsbD j = true ∧ k = pboxPos j := by
  rw [perm32, permFrom_getLsbD, pboxTable_zipIdx]
  simp [pboxPos_lt, eq_comm (a := k)]

theorem perm32_twoPow (j : Fin 32) : perm32 (BitVec.twoPow 32 j) = BitVec.twoPow 32 (pboxPos j) := by
  apply BitVec.eq_of_getLsbD_eq
  intro k _
  rw [Bool.eq_iff_iff, perm32_getLsbD]
  simp [pboxPos_lt, ← Fin.ext_iff, eq_comm (a := k)]

theorem perm32_getLsbD_pboxPos (x : Word) (j : Fin 32) : (perm32 x).getLsbD (pboxPos j) = x.getLsbD j := by
  rw [Bool.eq_iff_iff, perm32_getLsbD]
  constructor
  · rintro ⟨i, hi, hpos⟩
    rwa [pboxPos_injective hpos]
  · exact fun hj => ⟨j, hj, rfl⟩

theorem perm32_injective : Function.Injective perm32 := by
  intro x y hxy
  apply BitVec.eq_of_getLsbD_eq
  intro i hi
  rw [← perm32_getLsbD_pboxPos x ⟨i, hi⟩, hxy, perm32_getLsbD_pboxPos y ⟨i, hi⟩]

end Sys2Proof.Machine

namespace Sys2Proof

open Machine

/-- Settles O48: PERM32 can be undone bit by bit; PBOX is the list of its single bits; the rest is evaluated. -/
theorem perm32IsBijection : Obligations.Perm32IsBijection := by
  refine ⟨Finite.injective_iff_bijective.1 perm32_injective, fun j => ?_, fun w hw => ?_, rfl, rfl, rfl, rfl, rfl⟩
  · rw [← BitVec.twoPow_eq, perm32_twoPow, pboxTable_eq, List.getElem?_ofFn, dif_pos j.isLt]
  · rw [pboxTable_eq, List.mem_ofFn] at hw
    obtain ⟨j, rfl⟩ := hw
    exact ⟨⟨pboxPos j, pboxPos_lt j⟩, BitVec.twoPow_eq 32 (pboxPos j)⟩

end Sys2Proof
end

section
/-! The bits an SP-box entry can set (41_spbox.md R149). -/

namespace Sys2Proof.Machine

/-- The output bits of table `t`: where PERM32 sends the byte that SPBOX_VALUE fills. -/
def spboxMask (t : Fin 4) : Word := perm32 (0xFF#32 <<< (24 - 8 * t.val))

/-- A byte in place has no bit outside the place. -/
theorem byte_shiftLeft_getLsbD {b : Byte} {n j : Nat} (h : (b.setWidth 32 <<< n).getLsbD j = true) :
    (0xFF#32 <<< n).getLsbD j = true := by
  have hmask : ∀ i < 8, (0xFF#32).getLsbD i = true := by decide
  simp only [BitVec.getLsbD_shiftLeft, BitVec.getLsbD_setWidth, Bool.and_eq_true, decide_eq_true_iff] at h ⊢
  obtain ⟨hplace, -, hbit⟩ := h
  exact ⟨hplace, hmask _ (BitVec.lt_of_getLsbD hbit)⟩

/-- PERM32 moves the bits of the byte where it moves the bits of its place. -/
theorem spboxValue_and_not_mask (t : Fin 4) (i : BitVec 10) : spboxValue t i &&& ~~~spboxMask t = 0 := by
  apply BitVec.eq_of_getLsbD_eq
  intro k _
  have hsub (h : (spboxValue t i).getLsbD k = true) : (spboxMask t).getLsbD k = true := by
    obtain ⟨j, hj, hpos⟩ := perm32_getLsbD.1 h
    exact perm32_getLsbD.2 ⟨j, byte_shiftLeft_getLsbD hj, hpos⟩
  cases hv : (spboxValue t i).getLsbD k
  · simp [hv]
  · simp [hv, hsub hv]

end Sys2Proof.Machine

namespace Sys2Proof

open Machine

/-- Settles O49: the four numbers are the masks `spboxMask` by evaluation. -/
theorem spboxEntriesKeepToTheirMask : Obligations.SpboxEntriesKeepToTheirMask := by
  have hmasks : spboxMask 0 = 0x82141842#32 ∧ spboxMask 1 = 0x18428214#32 ∧ spboxMask 2 = 0x24814128#32 ∧
      spboxMask 3 = 0x41282481#32 := by decide
  obtain ⟨h0, h1, h2, h3⟩ := hmasks
  refine ⟨fun i => ?_, by decide⟩
  rw [← h0, ← h1, ← h2, ← h3]
  exact ⟨spboxValue_and_not_mask 0 i, spboxValue_and_not_mask 1 i, spboxValue_and_not_mask 2 i,
    spboxValue_and_not_mask 3 i⟩

end Sys2Proof
end

section
/-! Who changes the SP-box table (41_spbox.md R155, R159). -/

namespace Sys2Proof.Machine

/-- SPBOX and SPBOX_BUILT are the same in both states. -/
structure KeepsTable (s t : State) : Prop where
  built : t.spboxBuilt = s.spboxBuilt
  table : t.spbox = s.spbox

theorem ensureBuilt_of_built {s : State} (h : s.spboxBuilt = true) : ensureBuilt s = s := if_pos h

/-! ### The host's accesses -/

theorem writeCmd_keepsTable (v : Word) (s : State) : KeepsTable s (writeCmd v s) := by
  unfold writeCmd
  split <;> exact ⟨rfl, rfl⟩

theorem regWrite_keepsTable (i : Fin 16) (v : Word) (s : State) : KeepsTable s (regWrite i v s) := by
  unfold regWrite
  split
  case h_1 => exact writeCmd_keepsTable v s
  all_goals exact ⟨rfl, rfl⟩

theorem bufWrite_keepsTable (a : Nat) (v : Byte) (s : State) : KeepsTable s (bufWrite a v s) := by
  unfold bufWrite
  split <;> exact ⟨rfl, rfl⟩

theorem bufRead_keepsTable (a : Nat) (s : State) : KeepsTable s (bufRead a s) := by
  unfold bufRead
  split
  · rw [readByte_frame]
    exact ⟨rfl, rfl⟩
  · exact ⟨rfl, rfl⟩

theorem hostAccess_keepsTable {op : HostOp} (hop : op ≠ .reset) (s : State) : KeepsTable s (hostAccess op s) := by
  cases op with
  | regWrite i v => exact regWrite_keepsTable i v s
  | regRead i => exact ⟨rfl, rfl⟩
  | bufWrite a v => exact bufWrite_keepsTable a v s
  | bufRead a => exact bufRead_keepsTable a s
  | reset => exact absurd rfl hop

/-! ### Commands -/

/-- A command keeps the table if its effect does: its completion does not touch it. -/
theorem runCommand_keepsTable {cs : List (Bool × ErrorCode)} {f : State → State} {s t : State}
    (hf : KeepsTable s (f s)) (hrun : runCommand cs f s = .next t) : KeepsTable s t := by
  rcases runCommand_cases hrun with ⟨e, -, rfl⟩ | ⟨-, rfl⟩
  · exact ⟨rfl, rfl⟩
  · exact ⟨hf.built, hf.table⟩

/-- What CONSTRUCT builds: the table, once, when it completes without an error (41_spbox.md R155). -/
theorem execConstruct_table {c : Nat} {s t : State} (hrun : execConstruct c s = .next t) :
    KeepsTable s t ∨ s.spboxBuilt = false ∧ t.status.err = false := by
  cases hb : s.spboxBuilt with
  | true =>
    refine .inl (runCommand_keepsTable ?_ hrun)
    rw [ensureBuilt_of_built hb]
    exact ⟨rfl, rfl⟩
  | false =>
    rcases runCommand_cases hrun with ⟨e, -, rfl⟩ | ⟨-, rfl⟩
    · exact .inl ⟨rfl, rfl⟩
    · exact .inr ⟨rfl, rfl⟩

/-- Every other command keeps the table. -/
theorem exec_keepsTable {i : Instr} {s t : State} (hi : ∀ c, i ≠ .construct c) (hrun : exec i s = .next t) :
    KeepsTable s t := by
  cases i with
  | construct c => exact absurd rfl (hi c)
  | setkey c =>
    rw [exec, execSetkey] at hrun
    refine runCommand_keepsTable ?_ hrun
    rw [(deriveSchedule_only c _ _).frame, memRead_frame]
    exact ⟨rfl, rfl⟩
  | encrypt c =>
    rw [exec, execEncrypt] at hrun
    refine runCommand_keepsTable ?_ hrun
    rw [transform_enc_frame]
    exact ⟨rfl, rfl⟩
  | decrypt c =>
    rw [exec, execDecrypt] at hrun
    refine runCommand_keepsTable ?_ hrun
    rw [transform_dec_frame]
    exact ⟨rfl, rfl⟩
  | decryptbuf c =>
    rw [exec, execDecryptbuf] at hrun
    refine runCommand_keepsTable ?_ hrun
    rw [copyTail_frame, decryptBlocks_frame]
    exact ⟨rfl, rfl⟩
  | clearkey c =>
    rw [exec, execClearkey] at hrun
    exact runCommand_keepsTable ⟨rfl, rfl⟩ hrun
  | keysize c =>
    rw [exec, execKeysize] at hrun
    exact runCommand_keepsTable ⟨rfl, rfl⟩ hrun
  | blocksize c =>
    rw [exec, execBlocksize] at hrun
    exact runCommand_keepsTable ⟨rfl, rfl⟩ hrun
  | reserved0 c | reserved9 c | reservedA c | reservedB c | reservedC c | reservedD c | reservedE c | reservedF c =>
    cases hrun
    exact ⟨rfl, rfl⟩

/-- PERFORM changes the table only when a CONSTRUCT completes without an error and finds it not built. -/
theorem perform_table {s t : State} (hrun : perform s = .next t) :
    KeepsTable s t ∨ s.spboxBuilt = false ∧ t.status.err = false ∧ ∃ c, fetch s = .instr (.construct c) := by
  rcases perform_cases hrun with ⟨i, hfetch, hexec⟩ | ⟨-, rfl⟩
  · by_cases hi : ∃ c, i = .construct c
    · obtain ⟨c, rfl⟩ := hi
      exact (execConstruct_table hexec).imp_right fun ⟨hbuilt, herr⟩ => ⟨hbuilt, herr, c, hfetch⟩
    · exact .inl (exec_keepsTable (not_exists.1 hi) hexec)
  · exact .inl ⟨rfl, rfl⟩

end Sys2Proof.Machine

namespace Sys2Proof

open Machine

/-- Settles O58: of all steps only reset and a first CONSTRUCT that succeeds touch the table. -/
theorem builtTableIsNeverChanged : Obligations.BuiltTableIsNeverChanged := by
  intro s t hstep hreset hcase
  suffices h : KeepsTable s t from ⟨h.built, h.table⟩
  rcases step_cases hstep with ⟨op, rest, hmove, rfl⟩ | ⟨-, -, rfl⟩ | ⟨hmove, -, hperform⟩
  · have h := hostAccess_keepsTable (hreset op rest hmove) { s with host := rest }
    exact ⟨h.built, h.table⟩
  · exact ⟨rfl, rfl⟩
  · refine (perform_table hperform).resolve_right ?_
    rintro ⟨hbuilt, herr, c, hfetch⟩
    rcases hcase with h | h | h | h
    · simp [hbuilt] at h
    · simp [herr] at h
    · simp [hmove] at h
    · exact h c hfetch

end Sys2Proof
end

section
/-! The expansions and the salt step of the round function (42_round_function.md R171 to R174). -/

namespace Sys2Proof.Machine

/-! ### The expansions, bit by bit -/

/-- The two masks of the expansions split a subvalue into its halves. -/
theorem halfMasks_getLsbD : ∀ q < 20,
    (0x3FF#32).getLsbD q = decide (q < 10) ∧ (0xFFC00#32).getLsbD q = !decide (q < 10) := by
  decide

/-- A word joined from halves by the two masks, cut to a subvalue. -/
theorem joinHalves_getLsbD (x y : Word) {q : Nat} (hq : q < 20) :
    (((x &&& 0x3FF#32) ||| (y &&& 0xFFC00#32)).setWidth 20).getLsbD q =
      if q < 10 then x.getLsbD q else y.getLsbD q := by
  obtain ⟨hlow, hhigh⟩ := halfMasks_getLsbD q hq
  rw [BitVec.getLsbD_setWidth, BitVec.getLsbD_or, BitVec.getLsbD_and, BitVec.getLsbD_and, hlow, hhigh]
  split <;> simp [*]

theorem expandL_getLsbD (p : Word) {q : Nat} (hq : q < 20) :
    (expandL p).getLsbD q =
      if q < 10 then p.getLsbD (16 + q) else if q < 18 then p.getLsbD (14 + q) else p.getLsbD (q - 18) := by
  refine (joinHalves_getLsbD (p >>> 16) (p >>> 14 ||| p <<< 18) hq).trans ?_
  rw [BitVec.getLsbD_or, BitVec.getLsbD_ushiftRight,
    BitVec.getLsbD_ushiftRight, BitVec.getLsbD_shiftLeft]
  by_cases hq18 : q < 18
  · simp [hq18]
  · have hout : p.getLsbD (14 + q) = false := BitVec.getLsbD_of_ge _ _ (by omega)
    simp [hq18, hout, show q < 32 by omega]

theorem expandR_getLsbD (p : Word) {q : Nat} (hq : q < 20) :
    (expandR p).getLsbD q = if q < 10 then p.getLsbD q else p.getLsbD (q - 2) := by
  refine (joinHalves_getLsbD p (p <<< 2) hq).trans ?_
  rw [BitVec.getLsbD_shiftLeft]
  by_cases hq10 : q < 10
  · simp [hq10]
  · simp [hq10, show q < 32 by omega, show ¬ q < 2 by omega]

/-! ### The salt step -/

/-- Under a mask, `(m &&& (x ^^^ y)) ^^^ x` takes the bit of `y` where the mask is set. -/
theorem maskedSwap_getLsbD {w : Nat} (m x y : BitVec w) (q : Nat) :
    ((m &&& (x ^^^ y)) ^^^ x).getLsbD q = if m.getLsbD q then y.getLsbD q else x.getLsbD q := by
  rw [BitVec.getLsbD_xor, BitVec.getLsbD_and, BitVec.getLsbD_xor]
  cases m.getLsbD q
  · simp
  · simp [Bool.xor_comm (x.getLsbD q)]

/-- al before the XOR with sk[0]. -/
theorem saltL_xor (p : Word) (sk : Subkey) :
    saltL p sk ^^^ sk.s0 = (sk.s2 &&& (expandL p ^^^ expandR p)) ^^^ expandL p := by
  rw [saltL, BitVec.xor_assoc, BitVec.xor_self, BitVec.xor_zero]

/-- ar before the XOR with sk[1], with the two expansions in the order of `maskedSwap_getLsbD`. -/
theorem saltR_xor (p : Word) (sk : Subkey) :
    saltR p sk ^^^ sk.s1 = (sk.s2 &&& (expandR p ^^^ expandL p)) ^^^ expandR p := by
  rw [saltR, BitVec.xor_assoc, BitVec.xor_self, BitVec.xor_zero, BitVec.xor_comm (expandL p)]

end Sys2Proof.Machine

namespace Sys2Proof

open Machine

/-- Settles O50: both sides of each equation have the same bits. -/
theorem expansionsBitForm : Obligations.ExpansionsBitForm := by
  intro p
  refine ⟨BitVec.eq_of_getLsbD_eq fun q hq => ?_, BitVec.eq_of_getLsbD_eq fun q hq => ?_⟩
  · rw [expandL_getLsbD p hq, BitVec.getLsbD_append, BitVec.getLsbD_append]
    simp only [BitVec.getLsbD_extractLsb']
    by_cases hq10 : q < 10
    · simp [hq10]
    by_cases hq18 : q < 18
    · have hbit : 24 + (q - 10) = 14 + q := by omega
      simp [hq10, hq18, hbit, show q - 10 < 8 by omega]
    · have hbit : q - 10 - 8 = q - 18 := by omega
      simp [hq10, hq18, hbit, show ¬ q - 10 < 8 by omega, show q - 18 < 2 by omega]
  · rw [expandR_getLsbD p hq, BitVec.getLsbD_append]
    simp only [BitVec.getLsbD_extractLsb']
    by_cases hq10 : q < 10
    · simp [hq10]
    · have hbit : 8 + (q - 10) = q - 2 := by omega
      simp [hq10, hbit, show q - 10 < 10 by omega]

/-- Settles O51: each half is a swap under the mask sk[2]. -/
theorem saltSwapsWhereSet : Obligations.SaltSwapsWhereSet := by
  intro p sk q _
  rw [saltL_xor, saltR_xor]
  exact ⟨maskedSwap_getLsbD .., maskedSwap_getLsbD ..⟩

end Sys2Proof
end

section
/-! The four words ROUND_F looks up in the built table (42_round_function.md R176): each keeps to its table's mask, and
the masks are disjoint. -/

namespace Sys2Proof.Machine

/-! ### Entries and masks -/

theorem spboxMask_eq : spboxMask 0 = 0x82141842#32 ∧ spboxMask 1 = 0x18428214#32 ∧ spboxMask 2 = 0x24814128#32 ∧
    spboxMask 3 = 0x41282481#32 := by
  decide

theorem spboxMask_disjoint : ∀ t u, t ≠ u → spboxMask t &&& spboxMask u = 0#32 := by decide

theorem spboxValue_and_mask (t : Fin 4) (i : BitVec 10) : spboxValue t i &&& spboxMask t = spboxValue t i := by
  have hsplit : spboxValue t i &&& (spboxMask t ||| ~~~spboxMask t) = spboxValue t i := by
    rw [BitVec.or_not_self, BitVec.and_allOnes]
  rwa [BitVec.and_or_distrib_left, spboxValue_and_not_mask, BitVec.ofNat_eq_ofNat, BitVec.or_zero] at hsplit

theorem spboxValue_and_mask_of_ne {t u : Fin 4} (h : t ≠ u) (i : BitVec 10) : spboxValue t i &&& spboxMask u = 0#32 := by
  rw [← spboxValue_and_mask, BitVec.and_assoc, spboxMask_disjoint t u h, BitVec.and_zero]

/-! ### The lookups -/

/-- The entry ROUND_F reads in table `t` (42_round_function.md R171). -/
def roundIndex (p : Word) (sk : Subkey) : Fin 4 → BitVec 10
  | 0 => (saltL p sk).extractLsb' 10 10
  | 1 => (saltL p sk).extractLsb' 0 10
  | 2 => (saltR p sk).extractLsb' 10 10
  | 3 => (saltR p sk).extractLsb' 0 10

/-- The word ROUND_F looks up in table `t` of the built table. -/
def roundLookup (p : Word) (sk : Subkey) (t : Fin 4) : Word := spboxValue t (roundIndex p sk t)

theorem subval_shiftRight_toNat (x : Subval) : (x >>> 10).toNat = (x.extractLsb' 10 10).toNat := by
  have hlt : x.toNat >>> 10 < 2 ^ 10 := by
    rw [Nat.shiftRight_eq_div_pow]
    omega
  rw [BitVec.extractLsb'_toNat, BitVec.toNat_ushiftRight, Nat.mod_eq_of_lt hlt]

theorem subval_and_mask_toNat (x : Subval) : (x &&& 0x3FF).toNat = (x.extractLsb' 0 10).toNat := by
  rw [BitVec.extractLsb'_toNat, BitVec.toNat_and]
  exact Nat.and_two_pow_sub_one_eq_mod _ 10

theorem built_read_shiftRight (t : Fin 4) (x : Subval) :
    SpBox.built.read t (x >>> 10).toNat = spboxValue t (x.extractLsb' 10 10) := by
  rw [subval_shiftRight_toNat, built_read]

theorem built_read_and_mask (t : Fin 4) (x : Subval) :
    SpBox.built.read t (x &&& 0x3FF).toNat = spboxValue t (x.extractLsb' 0 10) := by
  rw [subval_and_mask_toNat, built_read]

theorem roundLookup_and_mask (p : Word) (sk : Subkey) (t u : Fin 4) :
    roundLookup p sk t &&& spboxMask u = if t = u then roundLookup p sk t else 0#32 := by
  split
  next h => rw [← h, roundLookup, spboxValue_and_mask]
  next h => exact spboxValue_and_mask_of_ne h _

theorem roundLookup_disjoint (p : Word) (sk : Subkey) {t u : Fin 4} (h : t ≠ u) :
    roundLookup p sk t &&& roundLookup p sk u = 0#32 := by
  rw [roundLookup, roundLookup, ← spboxValue_and_mask u, BitVec.and_comm (spboxValue u _), ← BitVec.and_assoc,
    spboxValue_and_mask_of_ne h, BitVec.zero_and]

/-- ROUND_F over the built table is the OR of the four lookups. -/
theorem roundF_built (p : Word) (sk : Subkey) :
    roundF SpBox.built p sk =
      roundLookup p sk 0 ||| roundLookup p sk 1 ||| roundLookup p sk 2 ||| roundLookup p sk 3 := by
  simp only [roundF, built_read_shiftRight, built_read_and_mask]
  rfl

/-- A table's mask selects its lookup from the output of ROUND_F. -/
theorem roundF_and_mask (p : Word) (sk : Subkey) (t : Fin 4) :
    roundF SpBox.built p sk &&& spboxMask t = roundLookup p sk t := by
  simp only [roundF_built, BitVec.and_or_distrib_right, roundLookup_and_mask]
  match t with
  | 0 | 1 | 2 | 3 => simp

/-! ### Disjoint words -/

theorem or_eq_xor_of_and_eq_zero {w : Nat} {x y : BitVec w} (h : x &&& y = 0#w) : x ||| y = x ^^^ y := by
  apply BitVec.eq_of_getLsbD_eq
  intro q _
  have hbit : (x.getLsbD q && y.getLsbD q) = false := by simpa using congrArg (BitVec.getLsbD · q) h
  rw [BitVec.getLsbD_or, BitVec.getLsbD_xor]
  cases hx : x.getLsbD q
  · simp
  · simpa [hx] using hbit

theorem or_and_eq_zero {w : Nat} {x y z : BitVec w} (hx : x &&& z = 0#w) (hy : y &&& z = 0#w) :
    (x ||| y) &&& z = 0#w := by
  rw [BitVec.and_or_distrib_right, hx, hy, BitVec.or_zero]

/-- The OR of four pairwise disjoint words is their XOR and their sum. -/
theorem or_eq_xor_and_eq_add_of_disjoint {w : Nat} {x₀ x₁ x₂ x₃ : BitVec w}
    (h : [x₀, x₁, x₂, x₃].Pairwise fun x y => x &&& y = 0#w) :
    x₀ ||| x₁ ||| x₂ ||| x₃ = x₀ ^^^ x₁ ^^^ x₂ ^^^ x₃ ∧ x₀ ||| x₁ ||| x₂ ||| x₃ = x₀ + x₁ + x₂ + x₃ := by
  simp only [List.pairwise_cons, List.forall_mem_cons] at h
  obtain ⟨⟨h01, h02, h03, -⟩, ⟨h12, h13, -⟩, ⟨h23, -⟩, -⟩ := h
  have h2 := or_and_eq_zero h02 h12
  have h3 := or_and_eq_zero (or_and_eq_zero h03 h13) h23
  constructor
  · rw [or_eq_xor_of_and_eq_zero h3, or_eq_xor_of_and_eq_zero h2, or_eq_xor_of_and_eq_zero h01]
  · rw [← BitVec.add_eq_or_of_and_eq_zero _ _ h3, ← BitVec.add_eq_or_of_and_eq_zero _ _ h2,
      ← BitVec.add_eq_or_of_and_eq_zero _ _ h01]

end Sys2Proof.Machine

namespace Sys2Proof

open Machine

/-- Settles O52: the lookups keep to disjoint masks, and a mask selects its lookup. -/
theorem roundLookupsAreDisjoint : Obligations.RoundLookupsAreDisjoint := by
  intro p sk
  have hdisj : [roundLookup p sk 0, roundLookup p sk 1, roundLookup p sk 2, roundLookup p sk 3].Pairwise
      fun x y => x &&& y = 0 :=
    List.Pairwise.map (roundLookup p sk) (fun _ _ => roundLookup_disjoint p sk) (List.nodup_finRange 4)
  obtain ⟨hxor, hadd⟩ := or_eq_xor_and_eq_add_of_disjoint hdisj
  obtain ⟨hmask0, hmask1, hmask2, hmask3⟩ := spboxMask_eq
  dsimp only
  rw [built_read_shiftRight, built_read_and_mask, built_read_shiftRight, built_read_and_mask,
    ← hmask0, ← hmask1, ← hmask2, ← hmask3]
  exact ⟨hdisj, (roundF_built p sk).trans hxor, (roundF_built p sk).trans hadd, roundF_and_mask p sk 0,
    roundF_and_mask p sk 1, roundF_and_mask p sk 2, roundF_and_mask p sk 3⟩

end Sys2Proof
end

section
/-! The steps of the key-schedule engine in closed form (43_key_schedule.md R192, R193, R196, R200): the working words
after any number of bit steps, and the subkey values of one round and of one pass. -/

namespace Sys2Proof.Machine

/-! ### Bit steps -/

theorem closedBit_of_lt (w : Half) {i : Nat} (hi : i < 16) : closedBit w i = w.getLsbD i := by
  simp [closedBit, Nat.mod_eq_of_lt hi, Nat.div_eq_of_lt hi]

/-- Sixteen steps on, the complement of the same bit is taken. -/
theorem closedBit_add_sixteen (w : Half) (n : Nat) : closedBit w (n + 16) = !closedBit w n := by
  have hdiv : ((n + 16) / 16 % 2 = 1) ↔ ¬(n / 16 % 2 = 1) := by omega
  simp only [closedBit, Nat.add_mod_right, hdiv, decide_not, Bool.xor_not]

/-- The word after n steps holds the bits of the next sixteen. -/
theorem rotatedWord_iterate_getLsbD (w : Half) (n : Nat) {i : Nat} (hi : i < 16) :
    (rotatedWord^[n] w).getLsbD i = closedBit w (n + i) := by
  induction n generalizing i with
  | zero => rw [Nat.zero_add, closedBit_of_lt w hi]; rfl
  | succ n ih =>
    rw [Function.iterate_succ_apply', rotatedWord_getLsbD _ hi]
    split_ifs with h
    · subst h
      rw [ih (by omega), show n + 1 + 15 = n + 16 by omega, closedBit_add_sixteen, Nat.add_zero]
    · rw [ih (by omega), show n + (i + 1) = n + 1 + i by omega]

/-- Bit steps may be counted from any word on the way. -/
theorem closedBit_iterate (w : Half) (a n : Nat) : closedBit (rotatedWord^[a] w) n = closedBit w (a + n) := by
  have h := rotatedWord_iterate_getLsbD (rotatedWord^[a] w) n (i := 0) (by omega)
  rw [← Function.iterate_add_apply, rotatedWord_iterate_getLsbD w (n + a) (by omega)] at h
  simpa [Nat.add_comm n a] using h.symm

theorem rotatedWord_iterate_sixteen (w : Half) : rotatedWord^[16] w = ~~~w := by
  apply BitVec.eq_of_getLsbD_eq
  intro i hi
  rw [rotatedWord_iterate_getLsbD w 16 hi, Nat.add_comm, closedBit_add_sixteen, closedBit_of_lt w hi]
  simp [hi]

theorem rotatedWord_iterate_thirtyTwo (w : Half) : rotatedWord^[32] w = w := by
  rw [show 32 = 16 + 16 from rfl, Function.iterate_add_apply, rotatedWord_iterate_sixteen,
    rotatedWord_iterate_sixteen, BitVec.not_not]

/-- The four words of `kb` are those of `kb₀` after n bit steps each. -/
def KeyWords.StepsOn (kb₀ : KeyWords) (n : Nat) (kb : KeyWords) : Prop :=
  ∀ v, kb.get v = rotatedWord^[n] (kb₀.get v)

theorem KeyWords.StepsOn.zero (kb : KeyWords) : kb.StepsOn 0 kb := fun _ => rfl

theorem KeyWords.StepsOn.trans {kb₀ kb kb' : KeyWords} {a b : Nat} (h : kb₀.StepsOn a kb) (h' : kb.StepsOn b kb') :
    kb₀.StepsOn (a + b) kb' := fun v => by
  rw [h' v, h v, ← Function.iterate_add_apply, Nat.add_comm]

theorem KeyWords.StepsOn.deriveRound (kr : BitVec 2) (kb : KeyWords) : kb.StepsOn 15 (deriveRound kr kb).1 :=
  fun v => deriveRound_get kr v kb

/-! ### One round -/

/-- Iteration n writes slot n mod 3 and no other. -/
theorem roundIteration_get (kr : BitVec 2) (x : KeyWords × Subkey) (n : Nat) {j : Nat} (hj : j < 3) :
    (roundIteration kr x n).2.get j =
      if j = n % 3 then (iterationSteps kr (x.1, x.2.get j)).2 else x.2.get j := by
  simp only [roundIteration, Subkey.get_set _ _ (Nat.mod_lt n (by omega) : n % 3 < 3) hj]
  split_ifs with h
  · rw [h]
  · rfl

/-- After n iterations slot j has been filled (n + 2 - j) / 3 times, and the four bits of iteration 3m + j have been
shifted up by every later filling of that slot. -/
theorem iterations_getLsbD (kr : BitVec 2) (x : KeyWords × Subkey) {n j m k : Nat} (hn : n ≤ 15) (hj : j < 3)
    (hk : k < 4) (hm : 3 * m + j < n) :
    (((List.range n).foldl (roundIteration kr) x).2.get j).getLsbD (4 * ((n + 2 - j) / 3) - 1 - (4 * m + k)) =
      closedBit (x.1.get (kr + BitVec.ofNat 2 k)) (3 * m + j) := by
  induction n with
  | zero => omega
  | succ n ih =>
    rw [List.range_succ, List.foldl_append]
    simp only [List.foldl_cons, List.foldl_nil]
    rw [roundIteration_get kr _ n hj]
    by_cases hslot : j = n % 3
    · rw [if_pos hslot, iterationSteps_getLsbD _ _ (by omega)]
      by_cases hnow : 3 * m + j = n
      · rw [if_pos (by omega), iterations_get, rotatedWord_iterate_getLsbD _ n (by omega), hnow,
          show 3 - (4 * ((n + 1 + 2 - j) / 3) - 1 - (4 * m + k)) = k by omega, Nat.add_zero]
      · rw [if_neg (by omega), ← ih (by omega) (by omega)]
        congr 1
        omega
    · rw [if_neg hslot, ← ih (by omega) (by omega)]
      congr 1
      omega

/-- One round, whose words have taken the steps of the rounds before it (43_key_schedule.md R196, R200). -/
theorem deriveRound_isRoundOf {kb₀ kb : KeyWords} {first r : Nat} (ro : Fin 16)
    (hkb : kb₀.StepsOn (first + 15 * r) kb) :
    IsRoundOf kb₀ ro first r (deriveRound (keyrot (ro + Fin.ofNat 16 r)) kb).2 := by
  intro j m k hj hm hk
  have h := iterations_getLsbD (keyrot (ro + Fin.ofNat 16 r)) (kb, Subkey.zero) (le_refl 15) hj hk
    (show 3 * m + j < 15 by omega)
  rw [show 4 * ((15 + 2 - j) / 3) - 1 - (4 * m + k) = 19 - (4 * m + k) by omega, hkb, closedBit_iterate] at h
  exact h

theorem Subkey.eq_of_get {x y : Subkey} (h : ∀ j < 3, x.get j = y.get j) : x = y := by
  cases x
  cases y
  simpa [Subkey.get] using And.intro (h 0 (by omega)) (And.intro (h 1 (by omega)) (h 2 (by omega)))

/-- The closed form fixes the triple. -/
theorem IsRoundOf.unique {kb : KeyWords} {ro : Fin 16} {first r : Nat} {x y : Subkey}
    (hx : IsRoundOf kb ro first r x) (hy : IsRoundOf kb ro first r y) : x = y := by
  refine Subkey.eq_of_get fun j hj => BitVec.eq_of_getLsbD_eq fun i hi => ?_
  rw [show i = 19 - (4 * ((19 - i) / 4) + (19 - i) % 4) by omega, hx j _ _ hj (by omega) (by omega),
    hy j _ _ hj (by omega) (by omega)]

/-! ### One pass -/

theorem SchedOnly.size {c : Nat} {s t : State} (h : SchedOnly c s t) : (t.ctxAt c).size = (s.ctxAt c).size := by
  rw [h.slot]

theorem SchedOnly.rounds {c : Nat} {s t : State} (h : SchedOnly c s t) : (t.ctxAt c).rounds = (s.ctxAt c).rounds := by
  rw [h.slot]

theorem scheduleRound_ctxAt {c : Nat} {s : State} (n : Nat) (ro : Fin 16) (r : Nat) (hc : c < s.ctxs.length) :
    (scheduleRound c n ro s r).ctxAt c =
      (s.ctxAt c).setSubkey (n + r) (deriveRound (keyrot (ro + Fin.ofNat 16 r)) s.eng.kb).2 :=
  ctxAt_setCtx_same _ hc

/-- The first m rounds of SCHEDULE_BUILD. -/
def scheduleRounds (c n : Nat) (ro : Fin 16) (s : State) (m : Nat) : State :=
  (List.range m).foldl (scheduleRound c n ro) s

theorem scheduleRounds_succ (c n : Nat) (ro : Fin 16) (s : State) (m : Nat) :
    scheduleRounds c n ro s (m + 1) = scheduleRound c n ro (scheduleRounds c n ro s m) m := by
  simp [scheduleRounds, List.range_succ]

theorem scheduleBuild_eq (c n : Nat) (ro : Fin 16) (s : State) : scheduleBuild c n ro s = scheduleRounds c n ro s 8 :=
  rfl

theorem scheduleRounds_only (c n : Nat) (ro : Fin 16) (s : State) (m : Nat) :
    SchedOnly c s (scheduleRounds c n ro s m) := .foldl (.scheduleRound c n ro) _ s

/-- Each round takes fifteen steps on every working word. -/
theorem scheduleRounds_stepsOn (c n : Nat) (ro : Fin 16) (s : State) (m : Nat) :
    s.eng.kb.StepsOn (15 * m) (scheduleRounds c n ro s m).eng.kb := by
  induction m with
  | zero => exact .zero _
  | succ m ih =>
    rw [scheduleRounds_succ]
    exact ih.trans (.deriveRound _ _)

/-- A pass takes 120 steps on every working word (43_key_schedule.md R200). -/
theorem scheduleBuild_stepsOn (c n : Nat) (ro : Fin 16) (s : State) :
    s.eng.kb.StepsOn 120 (scheduleBuild c n ro s).eng.kb := scheduleRounds_stepsOn c n ro s 8

/-- Entries n to n + 7 are as a pass with rotation offset ro leaves them, `first` steps after LOAD_KB gave `kb`. -/
def Ctx.HasPass (x : Ctx) (kb : KeyWords) (ro : Fin 16) (first n : Nat) : Prop :=
  ∀ r, r < 8 → IsRoundOf kb ro first r (x.subkey (n + r))

section
variable {c n : Nat} {s : State} (ro : Fin 16) (hc : c < s.ctxs.length)
include hc

/-- Rounds write entries n, n + 1, … and no others. -/
theorem scheduleRounds_subkey_other {k m : Nat} (hk : ¬(n ≤ k ∧ k < n + m)) :
    ((scheduleRounds c n ro s m).ctxAt c).subkey k = (s.ctxAt c).subkey k := by
  induction m with
  | zero => rfl
  | succ m ih =>
    have hc' : c < (scheduleRounds c n ro s m).ctxs.length := by rwa [(scheduleRounds_only c n ro s m).count]
    rw [scheduleRounds_succ, scheduleRound_ctxAt n ro m hc', subkey_setSubkey_other _ (by omega), ih (by omega)]

theorem scheduleRounds_isRoundOf {kb₀ : KeyWords} {first m r : Nat} (hkb : kb₀.StepsOn first s.eng.kb)
    (hm : n + m ≤ (s.ctxAt c).sched.length) (hr : r < m) :
    IsRoundOf kb₀ ro first r (((scheduleRounds c n ro s m).ctxAt c).subkey (n + r)) := by
  induction m with
  | zero => omega
  | succ m ih =>
    have honly := scheduleRounds_only c n ro s m
    have hc' : c < (scheduleRounds c n ro s m).ctxs.length := by rwa [honly.count]
    rw [scheduleRounds_succ, scheduleRound_ctxAt n ro m hc']
    by_cases hlast : r = m
    · subst hlast
      rw [subkey_setSubkey_same _ (by rw [honly.storage]; omega)]
      exact deriveRound_isRoundOf ro (hkb.trans (scheduleRounds_stepsOn c n ro s r))
    · rw [subkey_setSubkey_other _ (by omega)]
      exact ih (by omega) (by omega)

/-- SCHEDULE_BUILD fills its eight entries (43_key_schedule.md R193). -/
theorem scheduleBuild_hasPass {kb₀ : KeyWords} {first : Nat} (hkb : kb₀.StepsOn first s.eng.kb)
    (hn : n + 8 ≤ (s.ctxAt c).sched.length) : ((scheduleBuild c n ro s).ctxAt c).HasPass kb₀ ro first n :=
  fun _ hr => scheduleRounds_isRoundOf ro hc hkb hn hr

/-- A pass leaves the entries of any other eight rounds alone (43_key_schedule.md R198). -/
theorem Ctx.HasPass.scheduleBuild {kb₀ : KeyWords} {ro₀ : Fin 16} {first n₀ : Nat}
    (h : (s.ctxAt c).HasPass kb₀ ro₀ first n₀) (hdisj : n₀ + 8 ≤ n ∨ n + 8 ≤ n₀) :
    ((scheduleBuild c n ro s).ctxAt c).HasPass kb₀ ro₀ first n₀ := fun r hr => by
  rw [scheduleBuild_eq, scheduleRounds_subkey_other ro hc (by omega)]
  exact h r hr

end

/-- Two slots filled by the same pass agree on its entries. -/
theorem Ctx.HasPass.unique {x y : Ctx} {kb : KeyWords} {ro : Fin 16} {first n : Nat} (hx : x.HasPass kb ro first n)
    (hy : y.HasPass kb ro first n) {k : Nat} (hk : n ≤ k ∧ k < n + 8) : x.subkey k = y.subkey k := by
  rw [show k = n + (k - n) by omega]
  exact (hx _ (by omega)).unique (hy _ (by omega))

end Sys2Proof.Machine

namespace Sys2Proof

open Machine

/-- Settles O53: each bit step takes bit 0, and the word after n steps holds the next sixteen bits. -/
theorem bitStepClosedForm : Obligations.BitStepClosedForm := by
  refine ⟨fun w n => ?_, fun w => ⟨rotatedWord_iterate_sixteen w, rotatedWord_iterate_thirtyTwo w⟩, ?_,
    fun s c n ro w => scheduleBuild_stepsOn c n ro s w⟩
  · rw [takenBit_eq, rotatedWord_iterate_getLsbD w n (by omega), Nat.add_zero]
  · have hbits : ∀ i < 16, closedBit 0x1234#16 (120 + i) = (0x34ED#16).getLsbD i := by decide
    apply BitVec.eq_of_getLsbD_eq
    intro i hi
    rw [rotatedWord_iterate_getLsbD _ 120 hi, hbits i hi]

end Sys2Proof
end

section
/-! SETKEY in closed form (43_key_schedule.md R194, R195, R198; 44_cipher_engine.md R233): the chunks of a key fill the
whole schedule, so the schedule is a function of the key alone. -/

namespace Sys2Proof.Machine

/-! ### What a key makes of a slot -/

/-- The words LOAD_KB gives for chunk i of a key (43_key_schedule.md R195). -/
def chunkWords (key : List Byte) (i : Nat) : KeyWords := loadKb ((key.drop (8 * i)).take 8)

/-- Both passes of chunk i stand in the slot (43_key_schedule.md R195). -/
structure Ctx.HasChunk (x : Ctx) (key : List Byte) (i : Nat) : Prop where
  first : x.HasPass (chunkWords key i) 0 0 (8 * i)
  mirrored : x.HasPass (chunkWords key i) 8 120 (x.rounds.toNat - 8 - 8 * i)

/-- The schedule is the one a key gives: a thin slot's single pass, or both passes of every chunk. -/
def Ctx.HasKey (x : Ctx) (key : List Byte) : Prop :=
  if x.rounds = 8 then x.HasPass (chunkWords key 0) 0 0 0 else ∀ i, i < x.size.toNat → x.HasChunk key i

/-- A slot is thin or has sixteen rounds for each of its chunks (10_state.md R22). -/
def Ctx.Sized (x : Ctx) : Prop := x.rounds ≠ 8 → x.rounds.toNat = 16 * x.size.toNat

/-- The passes of a key cover every round (43_key_schedule.md R198), so the key fixes them all. -/
theorem Ctx.HasKey.unique {x y : Ctx} {key : List Byte} {k : Nat} (hx : x.HasKey key) (hy : y.HasKey key)
    (hsize : y.size = x.size) (hrounds : y.rounds = x.rounds) (hsized : x.Sized) (hk : k < x.rounds.toNat) :
    x.subkey k = y.subkey k := by
  unfold Ctx.HasKey at hx hy
  rw [hrounds, hsize] at hy
  by_cases h8 : x.rounds = 8
  · rw [if_pos h8] at hx hy
    rw [h8] at hk
    exact hx.unique hy ⟨Nat.zero_le k, hk⟩
  · rw [if_neg h8] at hx hy
    have h16 := hsized h8
    by_cases hlow : k < 8 * x.size.toNat
    · have hi : k / 8 < x.size.toNat := by omega
      exact (hx _ hi).first.unique (hy _ hi).first (by omega)
    · have hi : (x.rounds.toNat - 1 - k) / 8 < x.size.toNat := by omega
      have hm := (hy _ hi).mirrored
      rw [hrounds] at hm
      exact (hx _ hi).mirrored.unique hm (by omega)

/-! ### Chunks -/

theorem setKb_ctxAt (s : State) (k : KeyWords) (c : Nat) : (s.setKb k).ctxAt c = s.ctxAt c := rfl

/-- A chunk changes nothing but the engine's registers and the slot's schedule. -/
theorem SchedOnly.stdChunk (c : Nat) (key : List Byte) (s : State) (i : Nat) :
    SchedOnly c s (stdChunk c key s i) :=
  ((SchedOnly.setKb c _ s).trans (scheduleBuild_only ..)).trans (scheduleBuild_only ..)

theorem stdChunk_eq (c : Nat) (key : List Byte) (s : State) (i : Nat) :
    stdChunk c key s i = scheduleBuild c ((s.ctxAt c).rounds.toNat - 8 - 8 * i) 8
      (scheduleBuild c (8 * i) 0 (s.setKb (chunkWords key i))) := rfl

/-- A chunk leaves alone every pass whose rounds neither of its own passes writes. -/
theorem Ctx.HasPass.stdChunk {c i n first : Nat} {s : State} {key : List Byte} {kb : KeyWords} {ro : Fin 16}
    (h : (s.ctxAt c).HasPass kb ro first n) (hc : c < s.ctxs.length)
    (hfirst : n + 8 ≤ 8 * i ∨ 8 * i + 8 ≤ n)
    (hmirrored : n + 8 ≤ (s.ctxAt c).rounds.toNat - 8 - 8 * i ∨ (s.ctxAt c).rounds.toNat - 8 - 8 * i + 8 ≤ n) :
    ((stdChunk c key s i).ctxAt c).HasPass kb ro first n := by
  rw [stdChunk_eq]
  have hafter := Ctx.HasPass.scheduleBuild (s := s.setKb (chunkWords key i)) 0 hc h hfirst
  refine hafter.scheduleBuild 8 ?_ hmirrored
  rwa [(scheduleBuild_only ..).count]

section
variable {c i : Nat} {s : State} {key : List Byte} (hc : c < s.ctxs.length)
  (hrounds : (s.ctxAt c).rounds.toNat = 16 * (s.ctxAt c).size.toNat)
  (hi : i < (s.ctxAt c).size.toNat)
include hc hrounds hi

/-- A chunk's mirrored pass starts from the words its first pass left, 120 steps on. -/
theorem stdChunk_hasChunk (hstorage : (s.ctxAt c).rounds.toNat ≤ (s.ctxAt c).sched.length) :
    ((stdChunk c key s i).ctxAt c).HasChunk key i := by
  have honly := scheduleBuild_only c (8 * i) 0 (s.setKb (chunkWords key i))
  have hc' : c < (scheduleBuild c (8 * i) 0 (s.setKb (chunkWords key i))).ctxs.length := by rwa [honly.count]
  have hfirst := scheduleBuild_hasPass (n := 8 * i) (s := s.setKb (chunkWords key i)) 0 hc (.zero _)
    (by rw [setKb_ctxAt]; omega)
  constructor
  · exact hfirst.scheduleBuild 8 hc' (by omega)
  · rw [(SchedOnly.stdChunk c key s i).rounds]
    refine scheduleBuild_hasPass 8 hc' (scheduleBuild_stepsOn _ _ _ _) ?_
    rw [honly.storage, setKb_ctxAt]
    omega

/-- The passes of different chunks write different rounds (43_key_schedule.md R198). -/
theorem Ctx.HasChunk.stdChunk {j : Nat} (h : (s.ctxAt c).HasChunk key j) (hj : j < i) :
    ((stdChunk c key s i).ctxAt c).HasChunk key j := by
  refine ⟨h.first.stdChunk hc (by omega) (by omega), ?_⟩
  rw [(SchedOnly.stdChunk c key s i).rounds]
  exact h.mirrored.stdChunk hc (by omega) (by omega)

end

/-! ### The derivation -/

/-- The first m chunks of SET_STD. -/
def stdChunks (c : Nat) (key : List Byte) (s : State) (m : Nat) : State := (List.range m).foldl (stdChunk c key) s

theorem stdChunks_succ (c : Nat) (key : List Byte) (s : State) (m : Nat) :
    stdChunks c key s (m + 1) = stdChunk c key (stdChunks c key s m) m := by
  simp [stdChunks, List.range_succ]

theorem stdChunks_only (c : Nat) (key : List Byte) (s : State) (m : Nat) : SchedOnly c s (stdChunks c key s m) :=
  .foldl (.stdChunk c key) _ s

section
variable {c : Nat} {s : State} (key : List Byte) (hc : c < s.ctxs.length)
  (hstorage : (s.ctxAt c).rounds.toNat ≤ (s.ctxAt c).sched.length)
include hc hstorage

theorem stdChunks_hasChunk {m i : Nat} (hrounds : (s.ctxAt c).rounds.toNat = 16 * (s.ctxAt c).size.toNat)
    (hm : m ≤ (s.ctxAt c).size.toNat) (hi : i < m) : ((stdChunks c key s m).ctxAt c).HasChunk key i := by
  induction m with
  | zero => omega
  | succ m ih =>
    have honly := stdChunks_only c key s m
    have hc' : c < (stdChunks c key s m).ctxs.length := by rwa [honly.count]
    have hrounds' : ((stdChunks c key s m).ctxAt c).rounds.toNat = 16 * ((stdChunks c key s m).ctxAt c).size.toNat := by
      rwa [honly.rounds, honly.size]
    have hm' : m < ((stdChunks c key s m).ctxAt c).size.toNat := by rwa [honly.size]
    rw [stdChunks_succ]
    by_cases hlast : i = m
    · subst hlast
      exact stdChunk_hasChunk hc' hrounds' hm' (by rwa [honly.rounds, honly.storage])
    · exact (ih (by omega) (by omega)).stdChunk hc' hrounds' hm' (by omega)

/-- SETKEY's derivation leaves the schedule the key gives (43_key_schedule.md R194, R195). -/
theorem deriveSchedule_hasKey (hsized : (s.ctxAt c).Sized) : ((deriveSchedule c key s).ctxAt c).HasKey key := by
  have honly := deriveSchedule_only c key s
  unfold Ctx.HasKey
  rw [honly.rounds, honly.size]
  unfold deriveSchedule
  by_cases h8 : (s.ctxAt c).rounds = 8
  · rw [if_pos h8, if_pos h8]
    rw [h8] at hstorage
    exact scheduleBuild_hasPass (s := s.setKb (chunkWords key 0)) 0 hc (.zero _) hstorage
  · rw [if_neg h8, if_neg h8]
    exact fun i hi => stdChunks_hasChunk key hc hstorage (hsized h8) (le_refl _) hi

end

/-! ### The command -/

/-- The effect of SETKEY: the whole key is read, then the schedule derived (44_cipher_engine.md R233). -/
def setkeyEffect (c : Nat) (s : State) : State :=
  deriveSchedule c (memRead s.opSrc s.opLen s).1 (memRead s.opSrc s.opLen s).2

theorem memRead_ctxAt (a n : Nat) (s : State) (c : Nat) : (memRead a n s).2.ctxAt c = s.ctxAt c := by
  rw [memRead_frame]
  rfl

/-- The reads neither see nor change the slots. -/
theorem memRead_withCtxs (a n : Nat) (s : State) (xs : List Ctx) :
    memRead a n { s with ctxs := xs } = ((memRead a n s).1, { (memRead a n s).2 with ctxs := xs }) := by
  induction n generalizing a s with
  | zero => rfl
  | succ n ih =>
    have hbyte : readByte a { s with ctxs := xs } = ((readByte a s).1, { (readByte a s).2 with ctxs := xs }) := by
      cases h : s.buf.read a with
      | some v => rw [readByte_written h, readByte_written (s := { s with ctxs := xs }) h]
      | none =>
        rw [readByte_unwritten h, readByte_unwritten (s := { s with ctxs := xs }) h]
        rfl
    simp only [memRead, hbyte, ih]

theorem setkeyEffect_hasKey {c : Nat} {s : State} (hc : c < s.ctxs.length)
    (hstorage : (s.ctxAt c).rounds.toNat ≤ (s.ctxAt c).sched.length) (hsized : (s.ctxAt c).Sized) :
    ((setkeyEffect c s).ctxAt c).HasKey (memRead s.opSrc s.opLen s).1 := by
  refine deriveSchedule_hasKey _ ?_ ?_ ?_
  · rwa [memRead_frame]
  · rwa [memRead_ctxAt]
  · rwa [memRead_ctxAt]

/-- SETKEY keeps the size of its slot, thin or standard, and of its storage. -/
theorem setkeyEffect_slot (c : Nat) (s : State) :
    ((setkeyEffect c s).ctxAt c).size = (s.ctxAt c).size ∧
      ((setkeyEffect c s).ctxAt c).rounds = (s.ctxAt c).rounds ∧
      ((setkeyEffect c s).ctxAt c).sched.length = (s.ctxAt c).sched.length := by
  have honly := deriveSchedule_only c (memRead s.opSrc s.opLen s).1 (memRead s.opSrc s.opLen s).2
  refine ⟨?_, ?_, ?_⟩
  · exact honly.size.trans (by rw [memRead_ctxAt])
  · exact honly.rounds.trans (by rw [memRead_ctxAt])
  · exact honly.storage.trans (by rw [memRead_ctxAt])

@[simp] theorem checkKeyLength_passed {c : Nat} {s : State} :
    (checkKeyLength c s).1 = false ↔ s.opLen = 8 * (s.ctxAt c).size.toNat := by
  simp [checkKeyLength]

/-- What SETKEY asks of its operands and its slot (60_exceptions.md R280). -/
structure SetkeyReady (c : Nat) (s : State) : Prop where
  present : c < s.params.nCtx
  valid : (s.ctxAt c).valid = true
  length : s.opLen = 8 * (s.ctxAt c).size.toNat
  range : s.opSrc + s.opLen ≤ s.params.bufBytes

theorem exec_setkey_ok {c : Nat} {s : State} (h : SetkeyReady c s) :
    exec (.setkey c) s = .next (completeOk (setkeyEffect c s)) := by
  rw [exec, execSetkey]
  exact runCommand_ok _ s (by simpa [h.present, h.valid] using And.intro h.length h.range)

/-- SETKEY without an error found what it asks for. -/
theorem exec_setkey_of_no_error {c : Nat} {s t : State} (hrun : exec (.setkey c) s = .next t)
    (herr : t.status.err = false) : SetkeyReady c s ∧ t = completeOk (setkeyEffect c s) := by
  rw [exec, execSetkey] at hrun
  rcases runCommand_cases hrun with ⟨e, -, rfl⟩ | ⟨hpass, ht⟩
  · simp at herr
  · simp only [List.forall_mem_cons, checkContext_passed, checkConstructed_passed, checkKeyLength_passed,
      checkRange_passed] at hpass
    obtain ⟨hctx, hvalid, hlen, hrange, -⟩ := hpass
    exact ⟨⟨hctx, hvalid, hlen, hrange⟩, ht⟩

/-- SETKEY of a written key completes and leaves the schedule that key gives. -/
theorem exec_setkey_written {c : Nat} {s : State} {K : List Byte} (h : SetkeyReady c s) (hc : c < s.ctxs.length)
    (hstorage : (s.ctxAt c).rounds.toNat ≤ (s.ctxAt c).sched.length) (hsized : (s.ctxAt c).Sized)
    (hK : K.length = s.opLen) (hread : ∀ j, (hj : j < K.length) → s.buf.read (s.opSrc + j) = some K[j]) :
    ∃ t, exec (.setkey c) s = .next t ∧ Completes s t 0 ∧ (t.ctxAt c).HasKey K ∧
      (t.ctxAt c).size = (s.ctxAt c).size ∧ (t.ctxAt c).rounds = (s.ctxAt c).rounds := by
  obtain ⟨hsize, hrounds, -⟩ := setkeyEffect_slot c s
  have hkey := setkeyEffect_hasKey hc hstorage hsized
  rw [memRead_written hK fun j hj => hread j (hK ▸ hj)] at hkey
  refine ⟨_, exec_setkey_ok h, completes_ok ?_, ?_⟩
  · rw [setkeyEffect, setkeyEffect_effectOnly c s]
  · rw [completeOk_ctxAt]
    exact ⟨hkey, hsize, hrounds⟩

/-! ### States that differ in schedules -/

/-- What `SameButSchedules` compares of a slot. -/
def Ctx.shape (x : Ctx) : Bool × BitVec 16 × BitVec 21 × Nat := (x.valid, x.size, x.rounds, x.sched.length)

theorem SameButSchedules.slot {s s' : State} (h : SameButSchedules s s') (c : Nat) :
    (s'.ctxAt c).valid = (s.ctxAt c).valid ∧ (s'.ctxAt c).size = (s.ctxAt c).size ∧
      (s'.ctxAt c).rounds = (s.ctxAt c).rounds ∧ (s'.ctxAt c).sched.length = (s.ctxAt c).sched.length := by
  obtain ⟨hframe, hslots⟩ := h
  have hparams : s'.params = s.params := by rw [hframe]
  have hmap : s'.ctxs.map Ctx.shape = s.ctxs.map Ctx.shape := hslots
  have hshape : (s'.ctxAt c).shape = (s.ctxAt c).shape := by
    rw [State.ctxAt, State.ctxAt, hparams, ← List.getD_map (f := Ctx.shape), hmap, List.getD_map]
  simpa [Ctx.shape] using hshape

/-- SETKEY asks nothing of the schedule. -/
theorem SetkeyReady.of_sameButSchedules {c : Nat} {s s' : State} (h : SetkeyReady c s) (hss : SameButSchedules s s') :
    SetkeyReady c s' := by
  obtain ⟨hvalid, hsize, -, -⟩ := hss.slot c
  have hframe := hss.1
  refine ⟨?_, hvalid.trans h.valid, ?_, ?_⟩
  · rw [hframe]
    exact h.present
  · rw [hsize, hframe]
    exact h.length
  · rw [hframe]
    exact h.range

/-- Storage comes in multiples of sixteen entries, so a slot with any holds all its rounds, thin or not. -/
theorem Ctx.Inv.rounds_le_storage {p : Params} {x : Ctx} {k : Nat} (h : x.Inv p) (hv : x.valid = true)
    (hk : k < x.sched.length) : x.rounds.toNat ≤ x.sched.length := by
  have hstorage := h.storage
  rcases h.sized hv with ⟨-, hr⟩ | ⟨-, hmax, hr⟩ <;> omega

theorem Ctx.Inv.rounds_sized {p : Params} {x : Ctx} (h : x.Inv p) (hv : x.valid = true) : x.Sized := fun h8 => by
  rcases h.sized hv with ⟨-, hr⟩ | ⟨-, -, hr⟩
  · exact absurd (BitVec.eq_of_toNat_eq hr) h8
  · exact hr

theorem subkey_beyond_storage {x : Ctx} {k : Nat} (hk : x.sched.length ≤ k) : x.subkey k = Subkey.zero :=
  List.getD_eq_default _ _ hk

/-- From states that differ in schedules, SETKEY derives the same entries. -/
theorem setkeyEffect_subkey_eq {c k : Nat} {s s' : State} (hss : SameButSchedules s s')
    (hinv : (s.ctxAt c).Inv s.params) (hv : (s.ctxAt c).valid = true) (hk : k < (s.ctxAt c).rounds.toNat) :
    ((setkeyEffect c s').ctxAt c).subkey k = ((setkeyEffect c s).ctxAt c).subkey k := by
  obtain ⟨hsize, hrounds, hstorage⟩ := setkeyEffect_slot c s
  obtain ⟨hsize', hrounds', hstorage'⟩ := setkeyEffect_slot c s'
  obtain ⟨hvalid, hsameSize, hsameRounds, hsameStorage⟩ := hss.slot c
  have hsized := hinv.rounds_sized hv
  by_cases hin : k < (s.ctxAt c).sched.length
  · have hle := hinv.rounds_le_storage hv hin
    have hkeys : (memRead s'.opSrc s'.opLen s').1 = (memRead s.opSrc s.opLen s).1 := by
      rw [hss.1]
      change (memRead s.opSrc s.opLen { s with ctxs := s'.ctxs }).1 = _
      rw [memRead_withCtxs]
    have hkey := setkeyEffect_hasKey (ctxAt_present hv) hle hsized
    have hkey' := setkeyEffect_hasKey (ctxAt_present (hvalid.trans hv)) (by rwa [hsameRounds, hsameStorage])
      (by rwa [Ctx.Sized, hsameRounds, hsameSize])
    rw [hkeys] at hkey'
    refine (hkey.unique hkey' ?_ ?_ ?_ ?_).symm
    · rw [hsize', hsameSize, hsize]
    · rw [hrounds', hsameRounds, hrounds]
    · rwa [Ctx.Sized, hrounds, hsize]
    · rwa [hrounds]
  · rw [subkey_beyond_storage (by omega), subkey_beyond_storage (by omega)]

end Sys2Proof.Machine

namespace Sys2Proof

open Machine

/-- Settles O32: the key is one chunk, and a thin slot holds its first pass. -/
theorem thinScheduleClosedForm : Obligations.ThinScheduleClosedForm := by
  intro s c K hslots hctx hvalid hsize hrounds hstorage hlen hrange hK hread
  have h8 : (s.ctxAt c).rounds = 8 := BitVec.eq_of_toNat_eq hrounds
  have hopLen : s.opLen = 8 := hlen
  obtain ⟨t, hexec, hcompletes, hkey, -, hr⟩ := exec_setkey_written (K := K)
    ⟨hctx, hvalid, by rw [hopLen, hsize], by rwa [hopLen]⟩ (by rwa [hslots]) (by rwa [hrounds])
    (absurd h8) (by rw [hK, hopLen]) hread
  rw [Ctx.HasKey, if_pos (hr.trans h8), chunkWords, Nat.mul_zero, List.drop_zero,
    List.take_of_length_le (le_of_eq hK)] at hkey
  refine ⟨t, hexec, hcompletes, fun r hr => ?_⟩
  have hround := hkey r hr
  rwa [Nat.zero_add] at hround

/-- Settles O33: a slot of a level holds both passes of every chunk. -/
theorem standardScheduleClosedForm : Obligations.StandardScheduleClosedForm := by
  intro s c K hslots hctx hvalid hsize hrounds hstorage hlen hrange hK hread
  have h8 : (s.ctxAt c).rounds ≠ 8 := fun h8 => by
    have : (s.ctxAt c).rounds.toNat = 8 := by rw [h8]; rfl
    omega
  obtain ⟨t, hexec, hcompletes, hkey, hs, hr⟩ := exec_setkey_written
    ⟨hctx, hvalid, hlen, hrange⟩ (by rwa [hslots]) hstorage (fun _ => hrounds) hK hread
  rw [Ctx.HasKey, hr, hs, if_neg h8] at hkey
  refine ⟨t, hexec, hcompletes, fun i r hi hr8 => ?_⟩
  obtain ⟨hfirst, hmirrored⟩ := hkey i hi
  rw [hr] at hmirrored
  exact ⟨hfirst r hr8, hmirrored r hr8⟩

/-- Settles O34: both runs read the same key, and the key fixes every entry. -/
theorem setkeyReplacesWholeSchedule : Obligations.SetkeyReplacesWholeSchedule := by
  intro s s' t t' c k hss _ hinv hvalid hk hrun hrun' herr
  obtain ⟨hready, rfl⟩ := exec_setkey_of_no_error hrun herr
  rw [exec_setkey_ok (hready.of_sameButSchedules hss)] at hrun'
  cases hrun'
  rw [completeOk_ctxAt, completeOk_ctxAt]
  exact setkeyEffect_subkey_eq hss hinv hvalid hk

end Sys2Proof
end

section
/-! Issue, the step of the engine and completion (44_cipher_engine.md R228 to R230, R240). -/

namespace Sys2Proof.Machine

/-! ### Issue -/

/-- The accesses of `deferHost` come after PERFORM. -/
theorem deferHost_head_late (hs : List HostReq) : ∀ q ∈ (deferHost hs).head?, q.early = false := by
  cases hs with
  | nil => simp [deferHost]
  | cons q rest => simp [deferHost]

theorem fetch_withFetchWord {nbits w : Nat} {i : Instr} (s : State) (h : decodeTableWord nbits w = some i) :
    fetch (s.withFetchWord nbits w) = .instr i := by
  unfold decodeTableWord at h
  split at h
  · next j hj =>
    cases h
    exact hj
  · cases h

/-- A CMD write to a BUSY core is dropped, whatever the word (44_cipher_engine.md R229). -/
theorem regWrite_cmd_busy {s : State} (v : Word) (hbusy : s.phase = .busy) :
    regWrite 0 v s = { s with status := s.status.overrunSet } := by
  show writeCmd v s = _
  simp [writeCmd, hbusy]

/-! ### Completion -/

theorem ErrorCode.number_le (e : ErrorCode) : e.number ≤ 8 := by cases e <;> decide

theorem EffectOnly.status {s t : State} (h : EffectOnly s t) : t.status = s.status := by rw [h]

theorem perform_done (s : State) : ∃ t, perform s = .next t ∧ t.phase = .idle ∧ t.status.done = true := by
  rcases perform_completes s with ⟨e, h⟩ | ⟨u, -, h⟩ <;> exact ⟨_, h, rfl, rfl⟩

/-- When the engine moves next, one step completes the command. -/
theorem run_one_completes {s : State} (hbusy : s.phase = .busy) (hmove : nextHostMove s = none) :
    ∃ t, core.run 1 s = .next t ∧ t.phase = .idle ∧ t.status.done = true := by
  obtain ⟨t, hperform, hdone⟩ := perform_done s
  exact ⟨t, core_run_succ 0 ((step_perform hbusy hmove).trans hperform), hdone⟩

/-! ### The host's accesses while BUSY -/

theorem regWrite_busy {s : State} (i : Fin 16) (v : Word) (hbusy : s.phase = .busy) :
    (regWrite i v s).phase = .busy := by
  unfold regWrite
  split
  case h_1 => simp [writeCmd, hbusy]
  all_goals exact hbusy

/-- Of the host's accesses only reset ends a running command (44_cipher_engine.md R229; 70_reset_and_hazards.md R321). -/
theorem hostAccess_busy {s : State} {op : HostOp} (hop : op ≠ .reset) (hbusy : s.phase = .busy) :
    (hostAccess op s).phase = .busy := by
  cases op with
  | regWrite i v => exact regWrite_busy i v hbusy
  | regRead i => exact hbusy
  | bufWrite a v =>
    rw [hostAccess, bufWrite]
    split <;> exact hbusy
  | bufRead a =>
    rw [hostAccess, bufRead]
    split
    · rw [readByte_frame]
      exact hbusy
    · exact hbusy
  | reset => exact absurd rfl hop

theorem regWrite_host (i : Fin 16) (v : Word) (s : State) : (regWrite i v s).host = s.host := by
  unfold regWrite
  split
  case h_1 =>
    unfold writeCmd
    split <;> rfl
  all_goals rfl

/-- No access changes the list of pending ones. -/
theorem hostAccess_host (op : HostOp) (s : State) : (hostAccess op s).host = s.host := by
  cases op with
  | regWrite i v => exact regWrite_host i v s
  | regRead i => rfl
  | bufWrite a v =>
    rw [hostAccess, bufWrite]
    split <;> rfl
  | bufRead a =>
    rw [hostAccess, bufRead]
    split
    · rw [readByte_frame]
      rfl
    · rfl
  | reset => rfl

/-- A BUSY core completes after the accesses that move before PERFORM, by induction on the pending ones. -/
theorem run_completes {hs : List HostReq} {s : State} (hhost : s.host = hs) (hbusy : s.phase = .busy)
    (hreset : ∀ q ∈ hs, q.op ≠ .reset) :
    ∃ k t, k ≤ hs.length + 1 ∧ core.run k s = .next t ∧ t.phase = .idle ∧ t.status.done = true := by
  induction hs generalizing s with
  | nil =>
    obtain ⟨t, hdone⟩ := run_one_completes hbusy (nextHostMove_nil hhost)
    exact ⟨1, t, le_refl _, hdone⟩
  | cons q rest ih =>
    rcases hmove : nextHostMove s with _ | ⟨op, rest'⟩
    · obtain ⟨t, hdone⟩ := run_one_completes hbusy hmove
      exact ⟨1, t, by omega, hdone⟩
    · obtain ⟨q', hq', rfl⟩ := nextHostMove_rest hmove
      obtain ⟨rfl, rfl⟩ := List.cons_eq_cons.1 (hhost.symm.trans hq')
      have hbusy' : (hostAccess q.op { s with host := rest }).phase = .busy :=
        hostAccess_busy (hreset q List.mem_cons_self) hbusy
      obtain ⟨k, t, hk, hrun, hdone⟩ := ih (hostAccess_host q.op { s with host := rest }) hbusy'
        fun q' hq' => hreset q' (List.mem_cons_of_mem q hq')
      refine ⟨k + 1, t, ?_, (core_run_succ k (step_host hmove)).trans hrun, hdone⟩
      rw [List.length_cons]
      omega

end Sys2Proof.Machine

namespace Sys2Proof

open Machine

/-- Settles O6: PERFORM of the decoded latch. -/
theorem stepRunsDecodedCommand : Obligations.StepRunsDecodedCommand :=
  fun _ _ hbusy hmove hdecode => (step_perform hbusy hmove).trans (perform_instr hdecode)

/-- Settles O9: the core is BUSY with the word latched, and the host waits. -/
theorem fetchWordRunsNext : Obligations.FetchWordRunsNext :=
  fun s _ _ h => (step_waiting rfl fun q hq => .inl (deferHost_head_late s.host q hq)).trans
    (perform_instr (fetch_withFetchWord s h))

/-- Settles O10: a CMD write to an IDLE core is `issue`. -/
theorem issueLatchesCommand : Obligations.IssueLatchesCommand :=
  fun _ v hidle => regWrite_cmd_idle v hidle

/-- Settles O11: a CMD write to a BUSY core is dropped. -/
theorem cmdWriteWhileBusyIsDropped : Obligations.CmdWriteWhileBusyIsDropped :=
  fun _ v hbusy => regWrite_cmd_busy v hbusy

/-- Settles O12: a command completes with an error's number, or with 0 after an effect that leaves STATUS alone. -/
theorem everyCommandCompletes : Obligations.EveryCommandCompletes := by
  intro i s
  rcases exec_completes i s with ⟨e, hexec⟩ | ⟨u, hu, hexec⟩
  · exact ⟨_, _, hexec, e.number_le, completes_error e s⟩
  · exact ⟨_, 0, hexec, by decide, completes_ok hu.status⟩

/-- Settles O14, by induction on the pending accesses. -/
theorem performIsEventuallyTaken : Obligations.PerformIsEventuallyTaken :=
  fun _ hbusy hreset => run_completes rfl hbusy hreset

/-- Settles O29: each of the eight OPs is reserved. -/
theorem reservedOperationsComplete : Obligations.ReservedOperationsComplete := by
  intro s c i hi
  have hop : i.op = 0 ∨ 9 ≤ i.op.toNat := by
    simp only [List.mem_cons, List.not_mem_nil, or_false] at hi
    rcases hi with rfl | rfl | rfl | rfl | rfl | rfl | rfl | rfl <;> simp [Instr.op]
  exact ⟨_, exec_reserved hop s, completes_error .illegalCommand s, onlyOutcome_error .illegalCommand s⟩

end Sys2Proof
end

section
/-! The commands on a slot: what each leaves when its checks pass, its errors in order, and which slots it leaves alone
(44_cipher_engine.md R232, R233, R237 to R239, R242). -/

namespace Sys2Proof.Machine

/-! ### Commands with two checks -/

/-- A command with two checks: each failure is its error with no other change, in order; else the effect. -/
theorem runCommand_two_checks (x y : Bool × ErrorCode) (f : State → State) (s : State) :
    ∃ t, runCommand [x, y] f s = .next t ∧
      (x.1 = true → Completes s t x.2.number ∧ OnlyOutcome s t) ∧
      (x.1 = false → y.1 = true → Completes s t y.2.number ∧ OnlyOutcome s t) ∧
      (x.1 = false → y.1 = false → t = completeOk (f s)) := by
  obtain ⟨bad, e⟩ := x
  obtain ⟨bad', e'⟩ := y
  cases bad with
  | true =>
    exact ⟨_, rfl, fun _ => ⟨completes_error e s, onlyOutcome_error e s⟩, nofun, nofun⟩
  | false =>
    cases bad' with
    | true =>
      exact ⟨_, rfl, nofun, fun _ _ => ⟨completes_error e' s, onlyOutcome_error e' s⟩, nofun⟩
    | false => exact ⟨_, rfl, nofun, nofun, fun _ _ => rfl⟩

@[simp] theorem checkContext_failed {c : Nat} {s : State} : (checkContext c s).1 = true ↔ s.params.nCtx ≤ c := by
  simp [checkContext]

@[simp] theorem checkConstructed_failed {c : Nat} {s : State} :
    (checkConstructed c s).1 = true ↔ (s.ctxAt c).valid = false := by
  simp [checkConstructed]

@[simp] theorem checkLevel_failed {s : State} :
    (checkLevel s).1 = true ↔ 1 ≤ s.opLevel ∧ (s.params.maxLevel : Int) < s.opLevel := by
  simp [checkLevel]

/-- The two errors of CLEARKEY and KEYSIZE (44_cipher_engine.md R237, R238). -/
theorem slotCommand_cases (c : Nat) (f : State → State) (s : State) :
    ∃ t, runCommand [checkContext c s, checkConstructed c s] f s = .next t ∧
      (s.params.nCtx ≤ c → Completes s t 2 ∧ OnlyOutcome s t) ∧
      (c < s.params.nCtx → (s.ctxAt c).valid = false → Completes s t 3 ∧ OnlyOutcome s t) ∧
      (c < s.params.nCtx → (s.ctxAt c).valid = true → t = completeOk (f s)) := by
  obtain ⟨t, hrun, hcontext, hconstructed, hok⟩ := runCommand_two_checks (checkContext c s) (checkConstructed c s) f s
  simp only [checkContext_failed, checkContext_passed, checkConstructed_failed, checkConstructed_passed]
    at hcontext hconstructed hok
  exact ⟨t, hrun, hcontext, hconstructed, hok⟩

/-! ### CONSTRUCT -/

theorem ensureBuilt_frame (s : State) :
    ensureBuilt s = { s with spbox := (ensureBuilt s).spbox, spboxBuilt := (ensureBuilt s).spboxBuilt } := by
  unfold ensureBuilt
  split <;> rfl

@[simp] theorem ensureBuilt_ctxs (s : State) : (ensureBuilt s).ctxs = s.ctxs := by rw [ensureBuilt_frame]

theorem ensureBuilt_of_not_built {s : State} (h : s.spboxBuilt = false) : ensureBuilt s = spboxBuild s := by
  simp [ensureBuilt, h]

section
variable {p : Params} {lv : Int} (hp : p.Legal) (hlv : ¬(1 ≤ lv ∧ (p.maxLevel : Int) < lv))
include hp hlv

theorem constructedCtx_size : (constructedCtx p lv).size.toNat = if lv < 1 then 1 else lv.toNat := by
  obtain ⟨-, ⟨-, hmax⟩, -⟩ := hp
  simp only [constructedCtx, sizing, BitVec.toNat_ofNat]
  split
  · rfl
  · exact Nat.mod_eq_of_lt (by omega)

theorem constructedCtx_rounds : (constructedCtx p lv).rounds.toNat = if lv < 1 then 8 else 16 * lv.toNat := by
  obtain ⟨-, ⟨-, hmax⟩, -⟩ := hp
  simp only [constructedCtx, sizing, BitVec.toNat_ofNat]
  split
  · rfl
  · exact Nat.mod_eq_of_lt (by omega)

end

/-! ### Other slots -/

/-- A command leaves a slot alone if its effect does: its completion touches none. -/
theorem runCommand_ctxAt {cs : List (Bool × ErrorCode)} {f : State → State} {s t : State} {d : Nat}
    (hf : (f s).ctxAt d = s.ctxAt d) (hrun : runCommand cs f s = .next t) : t.ctxAt d = s.ctxAt d := by
  rcases runCommand_cases hrun with ⟨e, -, rfl⟩ | ⟨-, rfl⟩
  · exact ctxAt_congr rfl rfl d
  · rw [completeOk_ctxAt, hf]

theorem setkeyEffect_only (c : Nat) (s : State) : SchedOnly c (memRead s.opSrc s.opLen s).2 (setkeyEffect c s) :=
  deriveSchedule_only ..

theorem ensureBuilt_ctxAt (s : State) (d : Nat) : (ensureBuilt s).ctxAt d = s.ctxAt d :=
  ctxAt_congr (ensureBuilt_ctxs s) (ensureBuilt_params s) d

theorem decryptBlocks_ctxAt (c src dst n : Nat) (s : State) (d : Nat) :
    (decryptBlocks c src dst n s).ctxAt d = s.ctxAt d := by
  rw [decryptBlocks_frame]
  rfl

/-- A command changes no slot but its own (44_cipher_engine.md R242). -/
theorem exec_ctxAt_other {i : Instr} {s t : State} {d : Nat} (hd : d ≠ i.ctx) (hrun : exec i s = .next t) :
    t.ctxAt d = s.ctxAt d := by
  cases i with
  | construct c =>
    rw [exec, execConstruct] at hrun
    refine runCommand_ctxAt ?_ hrun
    exact (ctxAt_setCtx_other _ hd).trans (ensureBuilt_ctxAt s d)
  | setkey c =>
    rw [exec, execSetkey] at hrun
    refine runCommand_ctxAt ?_ hrun
    exact ((setkeyEffect_only c s).other d hd).trans (memRead_ctxAt ..)
  | encrypt c =>
    rw [exec, execEncrypt] at hrun
    refine runCommand_ctxAt ?_ hrun
    rw [transform_enc_frame]
    rfl
  | decrypt c =>
    rw [exec, execDecrypt] at hrun
    refine runCommand_ctxAt ?_ hrun
    rw [transform_dec_frame]
    rfl
  | decryptbuf c =>
    rw [exec, execDecryptbuf] at hrun
    refine runCommand_ctxAt ?_ hrun
    rw [copyTail_frame]
    exact decryptBlocks_ctxAt ..
  | clearkey c =>
    rw [exec, execClearkey] at hrun
    exact runCommand_ctxAt (ctxAt_setCtx_other _ hd) hrun
  | keysize c =>
    rw [exec, execKeysize] at hrun
    exact runCommand_ctxAt rfl hrun
  | blocksize c =>
    rw [exec, execBlocksize] at hrun
    exact runCommand_ctxAt rfl hrun
  | reserved0 c | reserved9 c | reservedA c | reservedB c | reservedC c | reservedD c | reservedE c | reservedF c =>
    cases hrun
    rfl

/-- What a command can change at all (44_cipher_engine.md R242). -/
theorem exec_frame {i : Instr} {s t : State} (hrun : exec i s = .next t) :
    t = { s with phase := t.phase, status := t.status, eng := t.eng, freeCount := t.freeCount, ctxs := t.ctxs,
                 buf := t.buf, result := t.result, spbox := t.spbox, spboxBuilt := t.spboxBuilt,
                 faults := t.faults } := by
  rcases exec_completes i s with ⟨e, h⟩ | ⟨u, hu, h⟩
  · cases hrun.symm.trans h
    rfl
  · cases hrun.symm.trans h
    rw [hu]
    rfl

end Sys2Proof.Machine

namespace Sys2Proof

open Machine

/-- Settles O30: the slot is `constructedCtx` in a state whose table is built. -/
theorem constructStartsSlot : Obligations.ConstructStartsSlot := by
  intro s c hlegal hslots
  obtain ⟨t, hrun, hcontext, hlevel, hok⟩ := runCommand_two_checks (checkContext c s) (checkLevel s)
    (fun s => (ensureBuilt s).setCtx c (constructedCtx s.params s.opLevel)) s
  refine ⟨t, hrun, fun hc => hcontext (checkContext_failed.2 hc),
    fun hc hlv => hlevel (checkContext_passed.2 hc) (checkLevel_failed.2 hlv), fun hc hlv => ?_⟩
  obtain rfl := hok (checkContext_passed.2 hc) (Bool.eq_false_iff.2 (mt checkLevel_failed.1 hlv))
  have hslot : (completeOk ((ensureBuilt s).setCtx c (constructedCtx s.params s.opLevel))).ctxAt c =
      constructedCtx s.params s.opLevel := by
    rw [completeOk_ctxAt, ctxAt_setCtx_same _ (by simpa [hslots] using hc)]
  rw [hslot]
  refine ⟨completes_ok ?_, rfl, constructedCtx_size hlegal hlv, constructedCtx_rounds hlegal hlv, List.length_replicate,
    fun k => subkey_zeroSched .., ensureBuilt_spboxBuilt s, fun hbuilt => ?_, fun hbuilt b i => ?_, fun d hd => ?_, ?_⟩
  · rw [ensureBuilt_frame]
    rfl
  · rw [ensureBuilt_of_built hbuilt]
    rfl
  · rw [ensureBuilt_of_not_built hbuilt]
    exact built_read b i
  · exact exec_ctxAt_other (i := .construct c) hd hrun
  · rw [ensureBuilt_frame]
    rfl

/-- Settles O31: the key reads record, and the derivation is `SchedOnly`. -/
theorem setkeyCompletes : Obligations.SetkeyCompletes := by
  intro s c hslots hctx hvalid hlen hrange
  have honly := setkeyEffect_only c s
  refine ⟨_, exec_setkey_ok ⟨hctx, hvalid, hlen, hrange⟩, completes_ok ?_, ?_, ?_, fun d hd => ?_, fun a => ?_,
    fun f => ?_, ?_⟩
  · rw [honly.frame, memRead_frame]
  · rw [completeOk_ctxAt, ← memRead_ctxAt s.opSrc s.opLen s c]
    exact honly.slot
  · exact honly.storage.trans (by rw [memRead_ctxAt])
  · exact (honly.other d hd).trans (memRead_ctxAt ..)
  · rw [honly.frame]
    exact congrArg (Memory.read · a) (memRead_buf ..)
  · rw [honly.frame]
    exact mem_memRead_faults
  · rw [honly.frame, memRead_frame]
    rfl

/-- Settles O40: the effect is one `setCtx` of the slot with a zero schedule. -/
theorem clearkeyZeroesSchedule : Obligations.ClearkeyZeroesSchedule := by
  intro s c hslots
  obtain ⟨t, hrun, hcontext, hconstructed, hok⟩ := slotCommand_cases c
    (fun s => s.setCtx c { s.ctxAt c with sched := zeroSched s.params }) s
  refine ⟨t, hrun, hcontext, hconstructed, fun hc hvalid => ?_⟩
  obtain rfl := hok hc hvalid
  have hslot : (completeOk (s.setCtx c { s.ctxAt c with sched := zeroSched s.params })).ctxAt c =
      { s.ctxAt c with sched := zeroSched s.params } := by
    rw [completeOk_ctxAt, ctxAt_setCtx_same _ (by rwa [hslots])]
  rw [hslot]
  exact ⟨completes_ok rfl, rfl, List.length_replicate, fun k => subkey_zeroSched ..,
    fun d hd => exec_ctxAt_other (i := .clearkey c) hd hrun, rfl⟩

/-- Settles O41: 8·size of a 16-bit size fits RESULT. -/
theorem keysizeWritesResult : Obligations.KeysizeWritesResult := by
  intro s c
  obtain ⟨t, hrun, hcontext, hconstructed, hok⟩ := slotCommand_cases c
    (fun s => { s with result := BitVec.ofNat 32 (8 * (s.ctxAt c).size.toNat) }) s
  refine ⟨t, hrun, hcontext, hconstructed, fun hc hvalid => ?_⟩
  obtain rfl := hok hc hvalid
  have hsize := (s.ctxAt c).size.isLt
  exact ⟨completes_ok rfl, Nat.mod_eq_of_lt (by omega), rfl⟩

/-- Settles O42: BLOCKSIZE has no check. -/
theorem blocksizeWritesEight : Obligations.BlocksizeWritesEight :=
  fun _ _ => ⟨_, rfl, completes_ok rfl, rfl, rfl⟩

/-- Settles O43: slot, table and frame of a command. -/
theorem contextsAreIndependent : Obligations.ContextsAreIndependent := by
  intro i s t hrun
  refine ⟨fun d hd => exec_ctxAt_other hd hrun, fun hi => ?_, exec_frame hrun⟩
  have hkeeps := exec_keepsTable hi hrun
  exact ⟨hkeeps.table, hkeeps.built⟩

end Sys2Proof
end

section
/-! The two Feistel loops undo one another (44_cipher_engine.md R225 to R227, R241). -/

namespace Sys2Proof.Machine

theorem feistel_append (b : SpBox) (ks ls : List (Subkey × Subkey)) (h : Word × Word) :
    feistel b (ks ++ ls) h = feistel b ls (feistel b ks h) := by
  induction ks generalizing h with
  | nil => rfl
  | cons k ks ih => exact ih _

/-- The subkey pairs that undo a loop: the last first, each swapped. -/
def undoPairs (ks : List (Subkey × Subkey)) : List (Subkey × Subkey) := (ks.map Prod.swap).reverse

theorem undoPairs_cons (k : Subkey × Subkey) (ks : List (Subkey × Subkey)) :
    undoPairs (k :: ks) = undoPairs ks ++ [k.swap] := by
  simp [undoPairs]

theorem undoPairs_undoPairs (ks : List (Subkey × Subkey)) : undoPairs (undoPairs ks) = ks := by
  simp [undoPairs]

/-- One pair of half-rounds on the swapped result of the pair before it XORs the same two round values away. -/
theorem feistel_swap_single (b : SpBox) (k : Subkey × Subkey) (h : Word × Word) :
    feistel b [k.swap] (feistel b [k] h).swap = h.swap := by
  simp [feistel, Prod.swap]

/-- The loop over the undoing pairs, on the swapped halves, leads back, whatever the table holds. -/
theorem feistel_undoPairs (b : SpBox) (ks : List (Subkey × Subkey)) (h : Word × Word) :
    feistel b (undoPairs ks) (feistel b ks h).swap = h.swap := by
  induction ks generalizing h with
  | nil => rfl
  | cons k ks ih =>
    have hks : feistel b (undoPairs ks) (feistel b (k :: ks) h).swap = (feistel b [k] h).swap := ih (feistel b [k] h)
    rw [undoPairs_cons, feistel_append, hks, feistel_swap_single]

/-- Over an even number of rounds DEC_BLOCK's pairs are the undoing pairs of ENC_BLOCK's. -/
theorem Ctx.decPairs_eq {x : Ctx} (heven : x.rounds.toNat % 2 = 0) : x.decPairs = undoPairs x.encPairs := by
  refine List.ext_getElem (by simp [Ctx.decPairs, Ctx.encPairs, undoPairs]) fun j hj hj' => ?_
  have hj2 : j < x.rounds.toNat / 2 := by simpa [Ctx.decPairs] using hj
  have hlast : 2 * (x.rounds.toNat / 2 - 1 - j) + 1 = x.rounds.toNat - 1 - 2 * j := by omega
  simp [Ctx.decPairs, Ctx.encPairs, undoPairs, ← hlast]

theorem Ctx.encPairs_eq {x : Ctx} (heven : x.rounds.toNat % 2 = 0) : x.encPairs = undoPairs x.decPairs := by
  rw [x.decPairs_eq heven, undoPairs_undoPairs]

/-- A block's bytes under the loop over some pairs (44_cipher_engine.md R222, R223). -/
def cipherBytes (b : SpBox) (ks : List (Subkey × Subkey)) (B : List Byte) : List Byte :=
  blockBytes (feistel b ks (blockHalves B))

@[simp] theorem cipherBytes_length (b : SpBox) (ks : List (Subkey × Subkey)) (B : List Byte) :
    (cipherBytes b ks B).length = 8 := rfl

/-- Output bytes put R first, which is the swap the undoing loop needs. -/
theorem cipherBytes_undoPairs (b : SpBox) (ks : List (Subkey × Subkey)) {B : List Byte} (hB : B.length = 8) :
    cipherBytes b (undoPairs ks) (cipherBytes b ks B) = B := by
  have hswap : blockHalves (cipherBytes b ks B) = (feistel b ks (blockHalves B)).swap := blockHalves_blockBytes _
  rw [cipherBytes, hswap, feistel_undoPairs]
  exact blockBytes_blockHalves hB

theorem encBlock_fst (c : Nat) (B : List Byte) (s : State) :
    (encBlock c B s).1 = cipherBytes s.spbox (s.ctxAt c).encPairs B := runBlock_fst ..

theorem decBlock_fst (c : Nat) (B : List Byte) (s : State) :
    (decBlock c B s).1 = cipherBytes s.spbox (s.ctxAt c).decPairs B := runBlock_fst ..

/-- A zero schedule gives both directions the same pairs. -/
theorem Ctx.decPairs_eq_encPairs {x : Ctx} (hzero : ∀ k, x.subkey k = Subkey.zero) : x.decPairs = x.encPairs := by
  simp [Ctx.decPairs, Ctx.encPairs, hzero]

end Sys2Proof.Machine

namespace Sys2Proof

open Machine

/-- Settles O54: each direction's pairs are the undoing pairs of the other's. -/
theorem decryptInvertsEncrypt : Obligations.DecryptInvertsEncrypt := by
  intro s c B hB heven
  simp only [encBlock_fst, decBlock_fst]
  constructor
  · rw [Ctx.decPairs_eq heven, cipherBytes_undoPairs _ _ hB]
  · rw [Ctx.encPairs_eq heven, cipherBytes_undoPairs _ _ hB]

/-- Settles O56: under a zero schedule ENC_BLOCK is DEC_BLOCK, which inverts it. -/
theorem zeroScheduleIsSelfInverse : Obligations.ZeroScheduleIsSelfInverse := by
  intro s c B hB heven hzero
  have hsame : ∀ B, (encBlock c B s).1 = (decBlock c B s).1 := fun B => by
    rw [encBlock_fst, decBlock_fst, Ctx.decPairs_eq_encPairs hzero]
  exact ⟨hsame B, (hsame _).trans (decryptInvertsEncrypt s c B hB heven).1⟩

end Sys2Proof
end

section
/-! The block commands on written bytes, and the round trip (44_cipher_engine.md R227, R234, R235). -/

namespace Sys2Proof.Machine

/-! ### Bytes held and bytes written -/

/-- The buffer holds the bytes `B` from address `a` up, all written. -/
def Memory.HoldsAt (m : Memory) (a : Nat) (B : List Byte) : Prop := ∀ j, j < B.length → m.read (a + j) = B[j]?

theorem Memory.holdsAt_iff {m : Memory} {a : Nat} {B : List Byte} :
    m.HoldsAt a B ↔ ∀ j, (hj : j < B.length) → m.read (a + j) = some B[j] := by
  refine forall₂_congr fun j hj => ?_
  rw [List.getElem?_eq_getElem hj]

theorem Memory.HoldsAt.drop {m : Memory} {a : Nat} {B : List Byte} (h : m.HoldsAt a B) (n : Nat) :
    m.HoldsAt (a + n) (B.drop n) := fun j hj => by
  rw [List.length_drop] at hj
  rw [List.getElem?_drop, Nat.add_assoc, h (n + j) (by omega)]

theorem Memory.HoldsAt.take {m : Memory} {a : Nat} {B : List Byte} (h : m.HoldsAt a B) (n : Nat) :
    m.HoldsAt a (B.take n) := fun j hj => by
  rw [List.length_take] at hj
  rw [List.getElem?_take_of_lt (by omega), h j (by omega)]

theorem Memory.HoldsAt.memRead {s : State} {a : Nat} {B : List Byte} (h : s.buf.HoldsAt a B) :
    memRead a B.length s = (B, s) :=
  memRead_written rfl (Memory.holdsAt_iff.1 h)

/-- From `s` to `u` the bytes `O` were written from `dst` up, no other byte, and no record was left. -/
structure Writes (dst : Nat) (O : List Byte) (s u : State) : Prop where
  read : ∀ a, u.buf.read a = if dst ≤ a ∧ a < dst + O.length then O[a - dst]? else s.buf.read a
  faults : u.faults = s.faults

theorem Writes.outside {dst a : Nat} {O : List Byte} {s u : State} (h : Writes dst O s u)
    (ha : ¬(dst ≤ a ∧ a < dst + O.length)) : u.buf.read a = s.buf.read a := by
  rw [h.read, if_neg ha]

theorem Writes.holdsAt {dst : Nat} {O : List Byte} {s u : State} (h : Writes dst O s u) : u.buf.HoldsAt dst O :=
  fun j hj => by rw [h.read, if_pos (by omega), Nat.add_sub_cancel_left]

/-- Bytes clear of the destination are still held. -/
theorem Writes.keeps {dst a : Nat} {O B : List Byte} {s u : State} (h : Writes dst O s u) (hB : s.buf.HoldsAt a B)
    (hclear : a + B.length ≤ dst ∨ dst + O.length ≤ a) : u.buf.HoldsAt a B := fun j hj => by
  rw [h.outside (by omega), hB j hj]

/-- Writes to adjacent ranges, the lower first. -/
theorem Writes.append {dst : Nat} {O P : List Byte} {s u v : State} (h : Writes dst O s u)
    (g : Writes (dst + O.length) P u v) : Writes dst (O ++ P) s v where
  read a := by
    rw [g.read, h.read, List.length_append]
    by_cases hP : dst + O.length ≤ a ∧ a < dst + O.length + P.length
    · rw [if_pos hP, if_pos (by omega), List.getElem?_append_right (by omega), Nat.sub_add_eq]
    · rw [if_neg hP]
      by_cases hO : dst ≤ a ∧ a < dst + O.length
      · rw [if_pos hO, if_pos (by omega), List.getElem?_append_left (by omega)]
      · rw [if_neg hO, if_neg (by omega)]
  faults := g.faults.trans h.faults

theorem Writes.nil (dst : Nat) (s : State) : Writes dst [] s s :=
  ⟨fun a => by rw [if_neg (by simp)], rfl⟩

/-- A block transform of eight held bytes writes their cipher bytes. -/
theorem transformBlock_writes (pairs : State → List (Subkey × Subkey)) {src dst : Nat} {B : List Byte} {s : State}
    (hbuilt : s.spboxBuilt = true) (hB : B.length = 8) (h : s.buf.HoldsAt src B) :
    Writes dst (cipherBytes s.spbox (pairs s) B) s
      (transformBlock (fun B s => runBlock (pairs s) B s) src dst s) := by
  obtain ⟨O, hO, hbuf, hfaults, hcipher⟩ := transformBlock_spec (pairs := pairs) (src := src) (dst := dst) hbuilt
  have hread : memRead src 8 s = (B, s) := by rw [← hB, h.memRead]
  rw [hread] at hfaults hcipher
  refine ⟨fun a => ?_, hfaults⟩
  rw [hbuf, memWrite_read, hcipher]
  rfl

/-! ### The commands -/

/-- A block command that writes `O` has completed as its statement says (44_cipher_engine.md R234, R235). -/
theorem blockCommand_written {i : Instr} {dst : Nat} {O : List Byte} {s u : State}
    (hexec : exec i s = .next (completeOk u)) (hO : O.length = 8) (hw : Writes dst O s u)
    (hframe : u = { s with eng := u.eng, buf := u.buf, faults := u.faults, freeCount := u.freeCount }) :
    ∃ t, exec i s = .next t ∧ Completes s t 0 ∧
      (∀ j, j < 8 → t.buf.read (dst + j) = O[j]?) ∧
      (∀ a, ¬(dst ≤ a ∧ a < dst + 8) → t.buf.read a = s.buf.read a) ∧
      t = { s with phase := t.phase, status := t.status, eng := t.eng, freeCount := t.freeCount, buf := t.buf } := by
  refine ⟨_, hexec, completes_ok (by rw [hframe]), fun j hj => hw.holdsAt j (hO ▸ hj),
    fun a ha => hw.outside (hO ▸ ha), ?_⟩
  rw [hframe, hw.faults]
  rfl

/-- ENCRYPT without an error found what it asks for. -/
theorem exec_encrypt_of_no_error {c : Nat} {s t : State} (hrun : exec (.encrypt c) s = .next t)
    (herr : t.status.err = false) :
    c < s.params.nCtx ∧ (s.ctxAt c).valid = true ∧ s.opDst + 8 ≤ s.params.bufBytes ∧
      t = completeOk (transformBlock (encBlock c) s.opSrc s.opDst s) := by
  rw [exec, execEncrypt] at hrun
  rcases runCommand_cases hrun with ⟨e, -, rfl⟩ | ⟨hpass, ht⟩
  · simp at herr
  · simp only [List.forall_mem_cons, checkContext_passed, checkConstructed_passed, checkRange_passed] at hpass
    obtain ⟨hctx, hvalid, -, -, hdst, -⟩ := hpass
    exact ⟨hctx, hvalid, hdst, ht⟩

/-- A valid slot has an even number of rounds (10_state.md R22). -/
theorem Ctx.Inv.rounds_even {p : Params} {x : Ctx} (h : x.Inv p) (hv : x.valid = true) : x.rounds.toNat % 2 = 0 := by
  rcases h.sized hv with ⟨-, hr⟩ | ⟨-, -, hr⟩ <;> omega

/-- DECRYPT of the cipher bytes of `B` under its own slot and table leaves `B` (44_cipher_engine.md R227). -/
theorem exec_decrypt_restores {c : Nat} {s : State} {B : List Byte} (hctx : c < s.params.nCtx)
    (hvalid : (s.ctxAt c).valid = true) (hbuilt : s.spboxBuilt = true) (hlen : s.opLen = 8) (hcap : s.opCap = 8)
    (hsrc : s.opSrc + 8 ≤ s.params.bufBytes) (hdst : s.opDst + 8 ≤ s.params.bufBytes)
    (heven : (s.ctxAt c).rounds.toNat % 2 = 0) (hB : B.length = 8)
    (hheld : s.buf.HoldsAt s.opSrc (cipherBytes s.spbox (s.ctxAt c).encPairs B)) :
    ∃ u, exec (.decrypt c) s = .next (completeOk u) ∧ u.status = s.status ∧ u.buf.HoldsAt s.opDst B := by
  have hw := transformBlock_writes (fun s => (s.ctxAt c).decPairs) (dst := s.opDst) hbuilt
    (cipherBytes_length ..) hheld
  simp only [Ctx.decPairs_eq heven, cipherBytes_undoPairs _ _ hB] at hw
  refine ⟨_, exec_decrypt_ok hctx hvalid hlen hcap hsrc hdst, ?_, hw.holdsAt⟩
  rw [transform_dec_frame]

end Sys2Proof.Machine

namespace Sys2Proof

open Machine

/-- Settles O35: ENCRYPT is the transform by the slot's `encPairs`. -/
theorem encryptWritesBlock : Obligations.EncryptWritesBlock := by
  intro s c B hctx hvalid hbuilt hlen hcap hsrc hdst hB hread
  exact blockCommand_written (exec_encrypt_ok hctx hvalid hlen hcap hsrc hdst) (cipherBytes_length ..)
    (transformBlock_writes (fun s => (s.ctxAt c).encPairs) hbuilt hB (Memory.holdsAt_iff.2 hread))
    (transform_enc_frame ..)

/-- Settles O36: DECRYPT is the transform by the slot's `decPairs`. -/
theorem decryptWritesBlock : Obligations.DecryptWritesBlock := by
  intro s c B hctx hvalid hbuilt hlen hcap hsrc hdst hB hread
  exact blockCommand_written (exec_decrypt_ok hctx hvalid hlen hcap hsrc hdst) (cipherBytes_length ..)
    (transformBlock_writes (fun s => (s.ctxAt c).decPairs) hbuilt hB (Memory.holdsAt_iff.2 hread))
    (transform_dec_frame ..)

/-- Settles O55: ENCRYPT leaves its cipher bytes at LA2, and DECRYPT of them undoes the loop. -/
theorem encryptThenDecryptRestoresBlock : Obligations.EncryptThenDecryptRestoresBlock := by
  intro s t c d B hinv hB hread hrun herr hd
  obtain ⟨hctx, hvalid, hdst, rfl⟩ := exec_encrypt_of_no_error hrun herr
  have hbuilt := hinv.built_of_valid hvalid
  have hencrypted : Writes s.opDst (cipherBytes s.spbox (s.ctxAt c).encPairs B) s
      (transformBlock (encBlock c) s.opSrc s.opDst s) :=
    transformBlock_writes (fun s => (s.ctxAt c).encPairs) hbuilt hB (Memory.holdsAt_iff.2 hread)
  obtain ⟨eng, buf, faults, n, he⟩ : ∃ eng buf faults n, transformBlock (encBlock c) s.opSrc s.opDst s =
      { s with eng := eng, buf := buf, faults := faults, freeCount := n } := ⟨_, _, _, _, transform_enc_frame ..⟩
  rw [he] at hencrypted ⊢
  obtain ⟨u, hexec, hstatus, hheld⟩ := exec_decrypt_restores
    (s := { completeOk { s with eng := eng, buf := buf, faults := faults, freeCount := n } with
      eng := { Engine.free n with la0 := s.eng.la2, la1 := 8, la2 := d, la3 := 8 } })
    hctx hvalid hbuilt rfl rfl hdst hd ((hinv.ctxAt hvalid).rounds_even hvalid) hB hencrypted.holdsAt
  have hdone := completes_ok hstatus
  exact ⟨_, hexec, ⟨hdone.idle, hdone.done, hdone.err, hdone.errCode, hdone.overrun⟩, Memory.holdsAt_iff.1 hheld⟩

end Sys2Proof
end

section
/-! DECRYPTBUF: whole blocks, then the tail, in ascending order (44_cipher_engine.md R236; 20_memory.md R69). -/

namespace Sys2Proof.Machine

/-! ### The command -/

@[simp] theorem checkCapacity_passed {s : State} : (checkCapacity s).1 = false ↔ s.opLen ≤ s.opCap := by
  simp [checkCapacity]

/-- The effect of DECRYPTBUF: the blocks, then the bytes after them (44_cipher_engine.md R236). -/
def decryptbufEffect (c : Nat) (s : State) : State :=
  copyTail (s.opSrc + 8 * (s.opLen / 8)) (s.opDst + 8 * (s.opLen / 8)) (s.opLen % 8)
    (decryptBlocks c s.opSrc s.opDst (s.opLen / 8) s)

theorem exec_decryptbuf_ok {c : Nat} {s : State} (hc : c < s.params.nCtx) (hvalid : (s.ctxAt c).valid = true)
    (hcap : s.opLen ≤ s.opCap) (hsrc : s.opSrc + s.opLen ≤ s.params.bufBytes)
    (hdst : s.opDst + s.opLen ≤ s.params.bufBytes) :
    exec (.decryptbuf c) s = .next (completeOk (decryptbufEffect c s)) := by
  rw [exec, execDecryptbuf]
  exact runCommand_ok _ s (by simp [hc, hvalid, hcap, hsrc, hdst])

theorem decryptbufEffect_frame (c : Nat) (s : State) :
    decryptbufEffect c s =
      { s with
        eng := (decryptbufEffect c s).eng
        buf := (decryptbufEffect c s).buf
        faults := (decryptbufEffect c s).faults
        freeCount := (decryptbufEffect c s).freeCount } := by
  unfold decryptbufEffect
  rw [copyTail_frame, decryptBlocks_frame]

theorem transform_dec_spboxBuilt (c src dst : Nat) (s : State) :
    (transformBlock (decBlock c) src dst s).spboxBuilt = s.spboxBuilt := by rw [transform_dec_frame]

/-! ### On any bytes -/

/-- From `s` to `u` the n bytes from `dst` up were written, no other byte, and FAULT gained at most the unwritten ones of
the n bytes from `src` up. -/
structure MovesBytes (src dst n : Nat) (s u : State) : Prop where
  written : ∀ j, j < n → (u.buf.read (dst + j)).isSome
  outside : ∀ a, ¬(dst ≤ a ∧ a < dst + n) → u.buf.read a = s.buf.read a
  kept : ∀ f, f ∈ s.faults → f ∈ u.faults
  gained : ∀ f, f ∈ u.faults →
    f ∈ s.faults ∨ ∃ j, j < n ∧ f = .uninitRead (src + j) ∧ s.buf.read (src + j) = none

theorem MovesBytes.zero (src dst : Nat) (s : State) : MovesBytes src dst 0 s s :=
  ⟨fun _ hj => absurd hj (Nat.not_lt_zero _), fun _ _ => rfl, fun _ => id, fun _ => .inl⟩

/-- No byte becomes unwritten. -/
theorem MovesBytes.unwritten_before {src dst n a : Nat} {s u : State} (h : MovesBytes src dst n s u)
    (ha : u.buf.read a = none) : s.buf.read a = none := by
  by_cases hin : dst ≤ a ∧ a < dst + n
  · have hw := h.written (a - dst) (by omega)
    rw [Nat.add_sub_cancel' hin.1, ha] at hw
    cases hw
  · rwa [← h.outside a hin]

/-- Moves of adjacent ranges, the lower first, whatever the overlap: what the second finds unwritten was so before the
first. -/
theorem MovesBytes.append {src dst m n : Nat} {s u v : State} (h : MovesBytes src dst m s u)
    (g : MovesBytes (src + m) (dst + m) n u v) : MovesBytes src dst (m + n) s v where
  written j hj := by
    by_cases hlow : j < m
    · rw [g.outside _ (by omega)]
      exact h.written j hlow
    · have hw := g.written (j - m) (by omega)
      rwa [show dst + m + (j - m) = dst + j by omega] at hw
  outside a ha := by rw [g.outside a (by omega), h.outside a (by omega)]
  kept f hf := g.kept f (h.kept f hf)
  gained f hf := by
    rcases g.gained f hf with hu | ⟨j, hj, rfl, hnone⟩
    · rcases h.gained f hu with hs | ⟨j, hj, rfl, hnone⟩
      · exact .inl hs
      · exact .inr ⟨j, by omega, rfl, hnone⟩
    · rw [Nat.add_assoc] at hnone ⊢
      exact .inr ⟨m + j, by omega, rfl, h.unwritten_before hnone⟩

theorem TransformsBlock.moves {src dst : Nat} {s u : State} (h : TransformsBlock src dst s u) :
    MovesBytes src dst 8 s u :=
  ⟨h.written, h.outside, fun f hf => (h.faults f).2 (.inl hf), fun f hf => (h.faults f).1 hf⟩

theorem copyByte_moves (src dst : Nat) (s : State) :
    MovesBytes src dst 1 s (writeByte dst (readByte src s).1 (readByte src s).2) where
  written j hj := by
    obtain rfl : j = 0 := by omega
    rw [writeByte_buf, Nat.add_zero, Memory.read_write_same]
    rfl
  outside a ha := by
    rw [writeByte_buf, readByte_buf]
    exact Memory.read_write_other _ _ (by omega)
  kept f hf := mem_readByte_faults.2 (.inl hf)
  gained f hf := (mem_readByte_faults.1 hf).imp_right fun h => ⟨0, Nat.one_pos, h⟩

theorem copyTail_moves (src dst n : Nat) (s : State) : MovesBytes src dst n s (copyTail src dst n s) := by
  induction n generalizing src dst s with
  | zero => exact .zero src dst s
  | succ n ih =>
    have hmoves := (copyByte_moves src dst s).append (ih (src + 1) (dst + 1) _)
    rwa [Nat.add_comm 1 n] at hmoves

theorem decryptBlocks_moves (c src dst n : Nat) {s : State} (hbuilt : s.spboxBuilt = true) :
    MovesBytes src dst (8 * n) s (decryptBlocks c src dst n s) := by
  induction n generalizing src dst s with
  | zero => exact .zero src dst s
  | succ n ih =>
    have hblock : TransformsBlock src dst s (transformBlock (decBlock c) src dst s) :=
      transformBlock_transforms _ src dst hbuilt
    rw [Nat.mul_succ, Nat.add_comm]
    exact hblock.moves.append (ih _ _ (by rwa [transform_dec_spboxBuilt]))

theorem decryptbufEffect_moves (c : Nat) {s : State} (hbuilt : s.spboxBuilt = true) :
    MovesBytes s.opSrc s.opDst s.opLen s (decryptbufEffect c s) := by
  have hmoves := (decryptBlocks_moves c s.opSrc s.opDst (s.opLen / 8) hbuilt).append (copyTail_moves _ _ (s.opLen % 8) _)
  rwa [Nat.div_add_mod] at hmoves

/-! ### On written bytes -/

/-- The cipher bytes of the first n blocks of `B`. -/
def cipherBlocks (b : SpBox) (ks : List (Subkey × Subkey)) : Nat → List Byte → List Byte
  | 0, _ => []
  | n + 1, B => cipherBytes b ks (B.take 8) ++ cipherBlocks b ks n (B.drop 8)

@[simp] theorem cipherBlocks_length (b : SpBox) (ks : List (Subkey × Subkey)) (n : Nat) (B : List Byte) :
    (cipherBlocks b ks n B).length = 8 * n := by
  induction n generalizing B with
  | zero => rfl
  | succ n ih =>
    rw [cipherBlocks, List.length_append, cipherBytes_length, ih, Nat.mul_succ, Nat.add_comm]

/-- Byte j of the output is byte j mod 8 of block j div 8. -/
theorem cipherBlocks_getElem? (b : SpBox) (ks : List (Subkey × Subkey)) {n j : Nat} (B : List Byte) (hj : j < 8 * n) :
    (cipherBlocks b ks n B)[j]? = (cipherBytes b ks ((B.drop (8 * (j / 8))).take 8))[j % 8]? := by
  induction n generalizing B j with
  | zero => omega
  | succ n ih =>
    rw [cipherBlocks]
    by_cases hfirst : j < 8
    · rw [List.getElem?_append_left (by rwa [cipherBytes_length]), Nat.div_eq_of_lt hfirst, Nat.mod_eq_of_lt hfirst,
        Nat.mul_zero, List.drop_zero]
    · rw [List.getElem?_append_right (by rw [cipherBytes_length]; omega), cipherBytes_length, ih _ (by omega),
        List.drop_drop, ← Nat.mod_eq_sub_mod (Nat.not_lt.1 hfirst), show 8 + 8 * ((j - 8) / 8) = 8 * (j / 8) by omega]

/-- Ascending writes from `dst` do not reach source bytes still to be read: the ranges are the same, or disjoint, or the
destination is the lower one (20_memory.md R69). -/
def SafeMove (src dst n : Nat) : Prop := dst ≤ src ∨ src + n ≤ dst

theorem decryptBlocks_writes {c src dst n : Nat} {s : State} {B : List Byte} (hbuilt : s.spboxBuilt = true)
    (hn : 8 * n ≤ B.length) (hB : s.buf.HoldsAt src B) (hmove : SafeMove src dst B.length) :
    Writes dst (cipherBlocks s.spbox (s.ctxAt c).decPairs n B) s (decryptBlocks c src dst n s) := by
  induction n generalizing src dst s B with
  | zero => exact .nil dst s
  | succ n ih =>
    unfold SafeMove at hmove ih
    have hlen : (B.take 8).length = 8 := List.length_take_of_le (by omega)
    have hblock : Writes dst (cipherBytes s.spbox (s.ctxAt c).decPairs (B.take 8)) s
        (transformBlock (decBlock c) src dst s) :=
      transformBlock_writes (fun s => (s.ctxAt c).decPairs) hbuilt hlen (hB.take 8)
    have hrest := hblock.keeps (hB.drop 8) (by rw [List.length_drop, cipherBytes_length]; omega)
    have hwrites := ih (src := src + 8) (dst := dst + 8) (B := B.drop 8)
      (by rwa [transform_dec_spboxBuilt]) (by rw [List.length_drop]; omega) hrest (by rw [List.length_drop]; omega)
    have hkeys : (transformBlock (decBlock c) src dst s).spbox = s.spbox ∧
        (transformBlock (decBlock c) src dst s).ctxAt c = s.ctxAt c := by
      rw [transform_dec_frame]
      exact ⟨rfl, rfl⟩
    rw [hkeys.1, hkeys.2] at hwrites
    exact hblock.append hwrites

theorem copyTail_writes {src dst : Nat} {s : State} {B : List Byte} (hB : s.buf.HoldsAt src B)
    (hmove : SafeMove src dst B.length) : Writes dst B s (copyTail src dst B.length s) := by
  induction B generalizing src dst s with
  | nil => exact .nil dst s
  | cons v B ih =>
    unfold SafeMove at hmove ih
    rw [List.length_cons] at hmove
    have hread : readByte src s = (v, s) := readByte_written (hB 0 (Nat.zero_lt_succ _))
    have hbyte : Writes dst [v] s (memWrite dst [v] s) := ⟨memWrite_read dst [v] s, rfl⟩
    have hrest := hbyte.keeps (hB.drop 1) (by simp only [List.length_drop, List.length_cons, List.length_nil]; omega)
    have htail := ih (dst := dst + 1) hrest (by omega)
    rw [List.length_cons, copyTail, hread]
    exact hbyte.append htail

theorem decryptbufEffect_writes {c : Nat} {s : State} {B : List Byte} (hbuilt : s.spboxBuilt = true)
    (hlen : B.length = s.opLen) (hB : s.buf.HoldsAt s.opSrc B) (hmove : SafeMove s.opSrc s.opDst B.length) :
    Writes s.opDst (cipherBlocks s.spbox (s.ctxAt c).decPairs (B.length / 8) B ++ B.drop (8 * (B.length / 8))) s
      (decryptbufEffect c s) := by
  have hblocks := decryptBlocks_writes (c := c) (n := B.length / 8) hbuilt (Nat.mul_div_le ..) hB hmove
  unfold SafeMove at hmove
  have htailLen : (B.drop (8 * (B.length / 8))).length = B.length % 8 := by rw [List.length_drop]; omega
  have htail := hblocks.keeps (hB.drop (8 * (B.length / 8))) (by rw [htailLen, cipherBlocks_length]; omega)
  have hcopy := copyTail_writes (dst := s.opDst + 8 * (B.length / 8)) htail (by rw [htailLen, SafeMove]; omega)
  rw [htailLen] at hcopy
  unfold decryptbufEffect
  rw [← hlen]
  exact hblocks.append (by rwa [cipherBlocks_length])

end Sys2Proof.Machine

namespace Sys2Proof

open Machine

/-- Settles O38: blocks and tail are moves of adjacent ranges. -/
theorem decryptbufCompletesOnAnyBytes : Obligations.DecryptbufCompletesOnAnyBytes := by
  intro s c hctx hvalid hbuilt hcap hsrc hdst
  have hmoves := decryptbufEffect_moves c hbuilt
  refine ⟨_, exec_decryptbuf_ok hctx hvalid hcap hsrc hdst, completes_ok (by rw [decryptbufEffect_frame]),
    hmoves.written, hmoves.outside, hmoves.kept, hmoves.gained, ?_⟩
  rw [decryptbufEffect_frame]
  rfl

/-- Settles O39: in place or disjoint, the ascending writes reach no source byte still to be read. -/
theorem decryptbufDecryptsBlocksAndCopiesTail : Obligations.DecryptbufDecryptsBlocksAndCopiesTail := by
  intro s c B hctx hvalid hbuilt hcap hsrc hdst hlen hread hranges
  have hmove : SafeMove s.opSrc s.opDst B.length := by
    rcases hranges with hplace | hafter | hbefore
    · exact .inl (le_of_eq (congrArg BitVec.toNat hplace))
    · exact .inr hafter
    · exact .inl (Nat.le_of_add_right_le hbefore)
  have hwrites := decryptbufEffect_writes (c := c) hbuilt hlen (Memory.holdsAt_iff.2 hread) hmove
  refine ⟨_, exec_decryptbuf_ok hctx hvalid hcap hsrc hdst, completes_ok (by rw [decryptbufEffect_frame]),
    hwrites.faults, fun j hj => ?_⟩
  refine (hwrites.holdsAt j ?_).trans ?_
  · rw [List.length_append, cipherBlocks_length, List.length_drop]
    omega
  · split
    · next hblock =>
      rw [List.getElem?_append_left (by rwa [cipherBlocks_length]), cipherBlocks_getElem? _ _ _ hblock]
      rfl
    · next htail =>
      rw [List.getElem?_append_right (by rw [cipherBlocks_length]; omega), cipherBlocks_length, List.getElem?_drop,
        Nat.add_sub_cancel' (Nat.not_lt.1 htail)]

end Sys2Proof
end

section
/-! Schedule values reach nothing else (60_exceptions.md R290): the steps of two states that differ only in them,
side by side. -/

namespace Sys2Proof.Machine

/-! ### What two such states share -/

section
variable {s s' : State} (h : SameButSchedules s s')
include h

theorem SameButSchedules.params : s'.params = s.params := by rw [h.1]

theorem SameButSchedules.eng : s'.eng = s.eng := by rw [h.1]

theorem SameButSchedules.phase : s'.phase = s.phase := by rw [h.1]

theorem SameButSchedules.shapes : s'.ctxs.map Ctx.shape = s.ctxs.map Ctx.shape := h.2

theorem SameButSchedules.fetch : fetch s' = fetch s := by rw [Machine.fetch, Machine.fetch, h.eng]

theorem SameButSchedules.nextHostMove : nextHostMove s' = nextHostMove s := by
  rw [h.1]
  rfl

theorem SameButSchedules.checkContext (c : Nat) : checkContext c s' = checkContext c s := by
  rw [Machine.checkContext, Machine.checkContext, h.params]

theorem SameButSchedules.checkLevel : checkLevel s' = checkLevel s := by
  rw [Machine.checkLevel, Machine.checkLevel, h.params, State.opLevel, State.opLevel, h.eng]

theorem SameButSchedules.checkRange (a n : Nat) : checkRange a n s' = checkRange a n s := by
  rw [Machine.checkRange, Machine.checkRange, h.params]

theorem SameButSchedules.checkConstructed (c : Nat) : checkConstructed c s' = checkConstructed c s := by
  obtain ⟨hvalid, -⟩ := h.slot c
  rw [Machine.checkConstructed, Machine.checkConstructed, hvalid]

theorem SameButSchedules.checkKeyLength (c : Nat) : checkKeyLength c s' = checkKeyLength c s := by
  obtain ⟨-, hsize, -⟩ := h.slot c
  rw [Machine.checkKeyLength, Machine.checkKeyLength, hsize, State.opLen, State.opLen, h.eng]

end

theorem SameButSchedules.refl (s : State) : SameButSchedules s s := ⟨rfl, rfl⟩

/-! ### Operations that do not touch the slots -/

/-- An operation that neither sees nor changes the slots. -/
def SlotBlind (g : State → State) : Prop := ∀ s xs, g { s with ctxs := xs } = { g s with ctxs := xs }

theorem SlotBlind.ctxs {g : State → State} (hg : SlotBlind g) (s : State) : (g s).ctxs = s.ctxs := by
  have hsame : g s = { g s with ctxs := s.ctxs } := hg s s.ctxs
  rw [hsame]

theorem SlotBlind.sameButSchedules {g : State → State} {s s' : State} (hg : SlotBlind g) (h : SameButSchedules s s') :
    SameButSchedules (g s) (g s') := by
  constructor
  · calc g s' = g { s with ctxs := s'.ctxs } := congrArg g h.1
      _ = { g s with ctxs := s'.ctxs } := hg ..
      _ = { g s with ctxs := (g s').ctxs } := by rw [hg.ctxs s']
  · rw [hg.ctxs, hg.ctxs]
    exact h.2

theorem slotBlind_completeOk : SlotBlind completeOk := fun _ _ => rfl

theorem slotBlind_completeError (e : ErrorCode) : SlotBlind (completeError e) := fun _ _ => rfl

theorem slotBlind_memRead (a n : Nat) : SlotBlind fun s => (memRead a n s).2 := fun s xs =>
  congrArg Prod.snd (memRead_withCtxs a n s xs)

theorem slotBlind_ensureBuilt : SlotBlind ensureBuilt := fun s xs => by
  unfold ensureBuilt
  split <;> rfl

/-! ### Host accesses -/

/-- A byte read is a run of one byte. -/
theorem readByte_withCtxs (a : Nat) (s : State) (xs : List Ctx) :
    readByte a { s with ctxs := xs } = ((readByte a s).1, { (readByte a s).2 with ctxs := xs }) := by
  have h := memRead_withCtxs a 1 s xs
  simp only [memRead, Prod.mk.injEq, List.cons.injEq, and_true] at h
  exact Prod.ext h.1 h.2

theorem slotBlind_writeCmd (v : Word) : SlotBlind (writeCmd v) := fun s xs => by
  cases hphase : s.phase <;> simp [writeCmd, issue, hphase]

theorem slotBlind_regWrite (i : Fin 16) (v : Word) : SlotBlind (regWrite i v) := fun s xs => by
  unfold regWrite
  split
  case h_1 => exact slotBlind_writeCmd v s xs
  all_goals rfl

/-- No register shows a slot (30_encoding.md R90). -/
theorem regValue_withCtxs (s : State) (xs : List Ctx) (i : Fin 16) :
    State.regValue { s with ctxs := xs } i = s.regValue i := by
  unfold State.regValue
  split <;> rfl

theorem slotBlind_regRead (i : Fin 16) : SlotBlind (regRead i) := fun s xs => by
  rw [regRead, regRead, regValue_withCtxs]
  rfl

theorem slotBlind_bufWrite (a : Nat) (v : Byte) : SlotBlind (bufWrite a v) := fun s xs => by
  unfold bufWrite
  split <;> rfl

theorem slotBlind_bufRead (a : Nat) : SlotBlind (bufRead a) := fun s xs => by
  unfold bufRead
  split
  · rw [readByte_withCtxs]
    rfl
  · rfl

/-- Reset reads the parameters and none of the slots. -/
theorem SameButSchedules.hostReset {s s' : State} (h : SameButSchedules s s') : hostReset s' = hostReset s := by
  rw [h.1]
  rfl

theorem SameButSchedules.hostAccess {s s' : State} (op : HostOp) (h : SameButSchedules s s') :
    SameButSchedules (hostAccess op s) (hostAccess op s') := by
  cases op with
  | regWrite i v => exact (slotBlind_regWrite i v).sameButSchedules h
  | regRead i => exact (slotBlind_regRead i).sameButSchedules h
  | bufWrite a v => exact (slotBlind_bufWrite a v).sameButSchedules h
  | bufRead a => exact (slotBlind_bufRead a).sameButSchedules h
  | reset =>
    change SameButSchedules (Machine.hostReset s) (Machine.hostReset s')
    rw [h.hostReset]
    exact .refl _

/-! ### Operations on the slots -/

/-- Slots of one shape may take the place of one another. -/
theorem SameButSchedules.setCtx {s s' : State} {x x' : Ctx} (c : Nat) (h : SameButSchedules s s')
    (hx : x'.shape = x.shape) : SameButSchedules (s.setCtx c x) (s'.setCtx c x') := by
  constructor
  · rw [h.1]
    rfl
  · change (s'.ctxs.set c x').map Ctx.shape = (s.ctxs.set c x).map Ctx.shape
    rw [List.map_set, List.map_set, h.shapes, hx]

theorem ctxAt_eq_getElem {s : State} {c : Nat} (hc : c < s.ctxs.length) : s.ctxAt c = s.ctxs[c] :=
  List.getD_eq_getElem _ _ hc

/-- The key-schedule engine keeps the shape of every slot. -/
theorem SchedOnly.shapes {c : Nat} {s t : State} (h : SchedOnly c s t) :
    t.ctxs.map Ctx.shape = s.ctxs.map Ctx.shape := by
  have hslot : ∀ d, (t.ctxAt d).shape = (s.ctxAt d).shape := by
    intro d
    by_cases hd : d = c
    · rw [hd, h.slot, Ctx.shape, Ctx.shape, h.storage]
    · rw [h.other d hd]
  refine List.ext_getElem (by simp [h.count]) fun d hd hd' => ?_
  rw [List.length_map] at hd hd'
  rw [List.getElem_map, List.getElem_map, ← ctxAt_eq_getElem hd, ← ctxAt_eq_getElem hd', hslot]

/-- Completion overwrites the engine's registers (93_implementation_defined.md S4), so of what the key-schedule engine
changes only schedule entries are left. -/
theorem SchedOnly.sameButSchedules_completeOk {c : Nat} {s s' t t' : State} (h : SameButSchedules s s')
    (ht : SchedOnly c s t) (ht' : SchedOnly c s' t') : SameButSchedules (completeOk t) (completeOk t') := by
  constructor
  · rw [ht'.frame, ht.frame, h.1]
    rfl
  · exact ht'.shapes.trans (h.shapes.trans ht.shapes.symm)

/-! ### Commands -/

/-- Two runs of a command whose checks agree: both end with the same error, or both with its effect. -/
theorem SameButSchedules.runCommand {s s' t t' : State} {cs cs' : List (Bool × ErrorCode)} {f : State → State}
    (h : SameButSchedules s s') (hcs : cs' = cs) (hf : SameButSchedules (completeOk (f s)) (completeOk (f s')))
    (hrun : runCommand cs f s = .next t) (hrun' : runCommand cs' f s' = .next t') : SameButSchedules t t' := by
  subst hcs
  rcases runCommand_cases hrun with ⟨e, he, rfl⟩ | ⟨hpass, rfl⟩
  · cases (runCommand_error f s' he).symm.trans hrun'
    exact (slotBlind_completeError e).sameButSchedules h
  · cases (runCommand_ok f s' hpass).symm.trans hrun'
    exact hf

section
variable {s s' t t' : State} {c : Nat} (h : SameButSchedules s s')
include h

theorem SameButSchedules.execConstruct (hrun : execConstruct c s = .next t) (hrun' : execConstruct c s' = .next t') :
    SameButSchedules t t' := by
  refine h.runCommand ?_ (slotBlind_completeOk.sameButSchedules ?_) hrun hrun'
  · rw [h.checkContext, h.checkLevel]
  · refine (slotBlind_ensureBuilt.sameButSchedules h).setCtx c ?_
    rw [h.params, State.opLevel, State.opLevel, h.eng]

/-- Both runs of SETKEY read the same key into the same working words, which completion discards. -/
theorem SameButSchedules.execSetkey (hrun : execSetkey c s = .next t) (hrun' : execSetkey c s' = .next t') :
    SameButSchedules t t' := by
  have hread : SameButSchedules (memRead s.opSrc s.opLen s).2 (memRead s'.opSrc s'.opLen s').2 := by
    have hops : s'.opSrc = s.opSrc ∧ s'.opLen = s.opLen := by
      rw [State.opSrc, State.opSrc, State.opLen, State.opLen, h.eng]
      exact ⟨rfl, rfl⟩
    rw [hops.1, hops.2]
    exact (slotBlind_memRead _ _).sameButSchedules h
  refine h.runCommand ?_ (SchedOnly.sameButSchedules_completeOk hread (setkeyEffect_only c s) (setkeyEffect_only c s'))
    hrun hrun'
  rw [h.checkContext, h.checkConstructed, h.checkKeyLength, h.checkRange, State.opSrc, State.opLen, h.eng]

theorem SameButSchedules.execClearkey (hrun : execClearkey c s = .next t) (hrun' : execClearkey c s' = .next t') :
    SameButSchedules t t' := by
  obtain ⟨hvalid, hsize, hrounds, -⟩ := h.slot c
  refine h.runCommand ?_ (slotBlind_completeOk.sameButSchedules (h.setCtx c ?_)) hrun hrun'
  · rw [h.checkContext, h.checkConstructed]
  · rw [Ctx.shape, Ctx.shape, h.params, hvalid, hsize, hrounds]

/-- KEYSIZE shows the size of a slot, which is no schedule value. -/
theorem SameButSchedules.execKeysize (hrun : execKeysize c s = .next t) (hrun' : execKeysize c s' = .next t') :
    SameButSchedules t t' := by
  obtain ⟨-, hsize, -⟩ := h.slot c
  refine h.runCommand ?_ (slotBlind_completeOk.sameButSchedules ?_) hrun hrun'
  · rw [h.checkContext, h.checkConstructed]
  · rw [hsize]
    exact SlotBlind.sameButSchedules (g := fun s => { s with result := _ }) (fun _ _ => rfl) h

theorem SameButSchedules.execBlocksize (hrun : execBlocksize c s = .next t)
    (hrun' : execBlocksize c s' = .next t') : SameButSchedules t t' :=
  h.runCommand rfl (SlotBlind.sameButSchedules
    (g := fun s => completeOk { s with result := 8 }) (fun _ _ => rfl) h) hrun hrun'

theorem SameButSchedules.illegalCommand (hrun : illegalCommand s = .next t) (hrun' : illegalCommand s' = .next t') :
    SameButSchedules t t' := by
  cases hrun
  cases hrun'
  exact (slotBlind_completeError .illegalCommand).sameButSchedules h

/-- Every command but the three block transforms. -/
theorem SameButSchedules.exec {i : Instr} (hi : ∀ c, i ≠ .encrypt c ∧ i ≠ .decrypt c ∧ i ≠ .decryptbuf c)
    (hrun : exec i s = .next t) (hrun' : exec i s' = .next t') : SameButSchedules t t' := by
  cases i with
  | construct c => exact h.execConstruct hrun hrun'
  | setkey c => exact h.execSetkey hrun hrun'
  | encrypt c => exact absurd rfl (hi c).1
  | decrypt c => exact absurd rfl (hi c).2.1
  | decryptbuf c => exact absurd rfl (hi c).2.2
  | clearkey c => exact h.execClearkey hrun hrun'
  | keysize c => exact h.execKeysize hrun hrun'
  | blocksize c => exact h.execBlocksize (c := c) hrun hrun'
  | reserved0 c | reserved9 c | reservedA c | reservedB c | reservedC c | reservedD c | reservedE c | reservedF c =>
    exact h.illegalCommand hrun hrun'

/-! ### The step -/

theorem SameButSchedules.perform
    (hi : ∀ c, Machine.fetch s ≠ .instr (.encrypt c) ∧ Machine.fetch s ≠ .instr (.decrypt c) ∧
      Machine.fetch s ≠ .instr (.decryptbuf c))
    (hrun : perform s = .next t) (hrun' : perform s' = .next t') : SameButSchedules t t' := by
  rcases perform_cases hrun with ⟨i, hfetch, hexec⟩ | ⟨hfetch, rfl⟩
  · rw [perform_instr (h.fetch.trans hfetch)] at hrun'
    simp only [hfetch, ne_eq, Decoded.instr.injEq] at hi
    exact h.exec hi hexec hrun'
  · cases (perform_rejected (h.fetch.trans hfetch)).symm.trans hrun'
    exact (slotBlind_completeError .illegalCommand).sameButSchedules h

end

theorem step_idle {s : State} (hidle : s.phase = .idle) (hmove : nextHostMove s = none) : step s = .next s := by
  simp [step, hmove, hidle]

end Sys2Proof.Machine

namespace Sys2Proof

open Machine

/-- Settles O59: both steps are the same host access, none, or PERFORM of the same word. -/
theorem scheduleIsNotHostReadable : Obligations.ScheduleIsNotHostReadable := by
  intro s s' t t' h hstep hstep' hnoTransform
  rcases step_cases hstep with ⟨op, rest, hmove, rfl⟩ | ⟨hmove, hidle, rfl⟩ | ⟨hmove, hbusy, hperform⟩
  · cases (step_host (h.nextHostMove.trans hmove)).symm.trans hstep'
    exact (SlotBlind.sameButSchedules (g := fun s => { s with host := rest }) (fun _ _ => rfl) h).hostAccess op
  · cases (step_idle (h.phase.trans hidle) (h.nextHostMove.trans hmove)).symm.trans hstep'
    exact h
  · rw [step_perform (h.phase.trans hbusy) (h.nextHostMove.trans hmove)] at hstep'
    exact h.perform (hnoTransform hbusy hmove) hperform hstep'

end Sys2Proof
end

section
/-! Which error a command reports, and what it leaves alone (60_exceptions.md R280, R283, R284, R288). -/

namespace Sys2Proof.Machine

/-! ### The code a list of checks reports -/

/-- ERRCODE after the checks `cs`: the number of the first error, 0 if there is none (60_exceptions.md R280, R283). -/
def reportedCode (cs : List (Bool × ErrorCode)) : BitVec 4 := ((firstError cs).map ErrorCode.number).getD 0

theorem reportedCode_nil : reportedCode [] = 0 := rfl

theorem reportedCode_cons (x : Bool × ErrorCode) (cs : List (Bool × ErrorCode)) :
    reportedCode (x :: cs) = if x.1 = true then x.2.number else reportedCode cs := by
  obtain ⟨bad, e⟩ := x
  cases bad <;> rfl

/-- A command reports what its checks report. -/
theorem runCommand_reports {cs : List (Bool × ErrorCode)} {f : State → State} {s : State} {code : BitVec 4}
    (hf : EffectOnly s (f s)) (hcode : reportedCode cs = code) :
    ∃ t, runCommand cs f s = .next t ∧ Completes s t code := by
  subst hcode
  obtain ⟨t, ht⟩ := runCommand_next cs f s
  refine ⟨t, ht, ?_⟩
  rcases runCommand_cases ht with ⟨e, he, rfl⟩ | ⟨hpass, rfl⟩
  · rw [reportedCode, he]
    exact completes_error e s
  · rw [reportedCode, firstError_eq_none.2 hpass]
    exact completes_ok hf.status

/-! ### Each check, with its cause and code -/

section
variable (s : State) (cs : List (Bool × ErrorCode))

theorem reportedCode_checkContext (c : Nat) :
    reportedCode (checkContext c s :: cs) = if s.params.nCtx ≤ c then 2 else reportedCode cs := by
  simp [reportedCode_cons, checkContext, ErrorCode.number]

theorem reportedCode_checkConstructed (c : Nat) :
    reportedCode (checkConstructed c s :: cs) = if (s.ctxAt c).valid = false then 3 else reportedCode cs := by
  simp [reportedCode_cons, checkConstructed, ErrorCode.number]

theorem reportedCode_checkLevel :
    reportedCode (checkLevel s :: cs) =
      if 1 ≤ s.opLevel ∧ (s.params.maxLevel : Int) < s.opLevel then 4 else reportedCode cs := by
  simp [reportedCode_cons, checkLevel, ErrorCode.number]

theorem reportedCode_checkKeyLength (c : Nat) :
    reportedCode (checkKeyLength c s :: cs) =
      if s.opLen ≠ 8 * (s.ctxAt c).size.toNat then 5 else reportedCode cs := by
  simp [reportedCode_cons, checkKeyLength, ErrorCode.number]

theorem reportedCode_checkBlockLength :
    reportedCode (checkBlockLength s :: cs) = if s.opLen ≠ 8 ∨ s.opCap ≠ 8 then 6 else reportedCode cs := by
  simp [reportedCode_cons, checkBlockLength, ErrorCode.number]

theorem reportedCode_checkCapacity :
    reportedCode (checkCapacity s :: cs) = if s.opCap < s.opLen then 7 else reportedCode cs := by
  simp [reportedCode_cons, checkCapacity, ErrorCode.number]

theorem reportedCode_checkRange (a n : Nat) :
    reportedCode (checkRange a n s :: cs) = if s.params.bufBytes < a + n then 8 else reportedCode cs := by
  simp [reportedCode_cons, checkRange, ErrorCode.number]

end

/-! ### Lists of checks that two commands share -/

/-- The checks of ENCRYPT and DECRYPT: source and destination range give the same code. -/
theorem reportedCode_blockChecks (c : Nat) (s : State) :
    reportedCode [checkContext c s, checkConstructed c s, checkBlockLength s, checkRange s.opSrc 8 s,
      checkRange s.opDst 8 s] =
      if s.params.nCtx ≤ c then 2 else if (s.ctxAt c).valid = false then 3
      else if s.opLen ≠ 8 ∨ s.opCap ≠ 8 then 6
      else if s.params.bufBytes < s.opSrc + 8 ∨ s.params.bufBytes < s.opDst + 8 then 8 else 0 := by
  rw [reportedCode_checkContext, reportedCode_checkConstructed, reportedCode_checkBlockLength,
    reportedCode_checkRange, reportedCode_checkRange, reportedCode_nil, ← ite_or]

/-- The checks of CLEARKEY and KEYSIZE. -/
theorem reportedCode_slotChecks (c : Nat) (s : State) :
    reportedCode [checkContext c s, checkConstructed c s] =
      if s.params.nCtx ≤ c then 2 else if (s.ctxAt c).valid = false then 3 else 0 := by
  rw [reportedCode_checkContext, reportedCode_checkConstructed, reportedCode_nil]

/-! ### Errors change nothing else -/

/-- An outcome with ERR set is error completion: a completed effect clears ERR. -/
theorem onlyOutcome_of_err {s t : State} {o : Host.Outcome State Fault Refusal}
    (ho : (∃ e, o = .next (completeError e s)) ∨ ∃ u, EffectOnly s u ∧ o = .next (completeOk u))
    (ht : o = .next t) (herr : t.status.err = true) : OnlyOutcome s t ∧ t.status.overrun = s.status.overrun := by
  rcases ho with ⟨e, he⟩ | ⟨u, -, hu⟩
  · cases he.symm.trans ht
    exact ⟨onlyOutcome_error e s, rfl⟩
  · cases hu.symm.trans ht
    cases herr

end Sys2Proof.Machine

namespace Sys2Proof

open Machine

/-- Settles O27: PERFORM and every command complete, and only error completion sets ERR. -/
theorem errorsChangeOnlyStatus : Obligations.ErrorsChangeOnlyStatus := by
  rintro s t (hperform | ⟨i, hexec⟩) herr
  · exact onlyOutcome_of_err (perform_completes s) hperform herr
  · exact onlyOutcome_of_err (exec_completes i s) hexec herr

/-- Settles O28: each command reports what its checks, in R283's order, report. -/
theorem firstErrorIsReported : Obligations.FirstErrorIsReported := by
  intro s c
  refine ⟨?construct, ?setkey, ?block, ?decryptbuf, ?slot, ?blocksize, ?reserved⟩
  case construct =>
    rw [exec, execConstruct]
    refine runCommand_reports ((ensureBuilt_effectOnly s).setCtx c _) ?_
    rw [reportedCode_checkContext, reportedCode_checkLevel, reportedCode_nil]
  case setkey =>
    rw [exec, execSetkey]
    refine runCommand_reports (setkeyEffect_effectOnly c s) ?_
    rw [reportedCode_checkContext, reportedCode_checkConstructed, reportedCode_checkKeyLength, reportedCode_checkRange,
      reportedCode_nil]
  case block =>
    intro i hi
    simp only [List.mem_cons, List.not_mem_nil, or_false] at hi
    rcases hi with rfl | rfl
    · rw [exec, execEncrypt]
      exact runCommand_reports (transformEnc_effectOnly c s.opSrc s.opDst s) (reportedCode_blockChecks c s)
    · rw [exec, execDecrypt]
      exact runCommand_reports (transformDec_effectOnly c s.opSrc s.opDst s) (reportedCode_blockChecks c s)
  case decryptbuf =>
    rw [exec, execDecryptbuf]
    refine runCommand_reports (copyTail_decryptBlocks_effectOnly ..) ?_
    rw [reportedCode_checkContext, reportedCode_checkConstructed, reportedCode_checkCapacity, reportedCode_checkRange,
      reportedCode_checkRange, reportedCode_nil, ← ite_or]
  case slot =>
    intro i hi
    simp only [List.mem_cons, List.not_mem_nil, or_false] at hi
    rcases hi with rfl | rfl
    · rw [exec, execClearkey]
      exact runCommand_reports rfl (reportedCode_slotChecks c s)
    · rw [exec, execKeysize]
      exact runCommand_reports rfl (reportedCode_slotChecks c s)
  case blocksize =>
    rw [exec, execBlocksize]
    exact runCommand_reports rfl reportedCode_nil
  case reserved =>
    intro i hi
    obtain ⟨t, hrun, hcompletes, -⟩ := reservedOperationsComplete s c i hi
    exact ⟨t, hrun, hcompletes⟩

/-- Settles O13: a host access and idling answer next by definition, and PERFORM completes. -/
theorem everyStepAnswersNext : Obligations.EveryStepAnswersNext := by
  intro s
  rcases hmove : nextHostMove s with _ | ⟨op, rest⟩
  · cases hphase : s.phase with
    | idle => exact ⟨s, step_idle hphase hmove⟩
    | busy =>
      obtain ⟨t, hperform, -⟩ := perform_done s
      exact ⟨t, (step_perform hphase hmove).trans hperform⟩
  · exact ⟨_, step_host hmove⟩

end Sys2Proof
end

section
/-! Reset, and what the host cannot reach while a command runs (70_reset_and_hazards.md R320, R321, R327, R328). -/

namespace Sys2Proof.Machine

/-! ### Register accesses while BUSY -/

/-- What a register access may change while a command runs: the operand registers, OVERRUN, and what the host received.
The command works from its latches (10_state.md R36), so it reads none of these. -/
def HostSideOnly (s t : State) : Prop :=
  t = { s with
    a0 := t.a0, a1 := t.a1, a2 := t.a2, a3 := t.a3
    status := { s.status with overrun := t.status.overrun }
    hostReads := t.hostReads }

theorem hostWrite_overrun_only (st : Status) (v : Word) :
    st.hostWrite v = { st with overrun := (st.hostWrite v).overrun } := by
  unfold Status.hostWrite
  split <;> rfl

theorem writeCmd_busy_hostSideOnly {s : State} (v : Word) (hbusy : s.phase = .busy) :
    HostSideOnly s (writeCmd v s) := by
  have hdropped : writeCmd v s = { s with status := s.status.overrunSet } := regWrite_cmd_busy v hbusy
  rw [hdropped]
  rfl

theorem regWrite_busy_hostSideOnly {s : State} (i : Fin 16) (v : Word) (hbusy : s.phase = .busy) :
    HostSideOnly s (regWrite i v s) := by
  unfold regWrite
  split
  case h_1 => exact writeCmd_busy_hostSideOnly v hbusy
  case h_6 => exact congrArg (fun st => { s with status := st }) (hostWrite_overrun_only s.status v)
  all_goals rfl

/-- Buffer accesses are held while BUSY (20_memory.md R64), so besides reset only register accesses remain. -/
theorem hostAccess_busy_hostSideOnly {s : State} {op : HostOp} (hbusy : s.phase = .busy) (hheld : op.held = false)
    (hop : op ≠ .reset) : HostSideOnly s (hostAccess op s) := by
  cases op with
  | regWrite i v => exact regWrite_busy_hostSideOnly i v hbusy
  | regRead i => rfl
  | bufWrite a v => cases hheld
  | bufRead a => cases hheld
  | reset => exact absurd rfl hop

/-! ### Reset -/

/-- Power-up and the reset input differ at most in what is not the core's (log 10). -/
theorem reset_frame {s t : State} (h : t = State.resetWith s.params ∨ t = hostAccess .reset s) :
    t = { State.resetWith s.params with host := t.host, hostReads := t.hostReads, freeCount := t.freeCount } := by
  rcases h with rfl | rfl <;> rfl

/-- STATUS reads 0 when its stored fields are clear, the core is IDLE and the table is not built (10_state.md R32). -/
theorem statusWord_eq_zero {s : State} (hidle : s.phase = .idle)
    (hclear : s.status = { done := false, err := false, errCode := 0, overrun := false })
    (hunbuilt : s.spboxBuilt = false) : s.statusWord = 0 := by
  rw [State.statusWord, State.busy, hidle, hclear, hunbuilt]
  decide

theorem resetWith_slot {p : Params} {x : Ctx} (hx : x ∈ (State.resetWith p).ctxs) : x = Ctx.reset p :=
  List.eq_of_mem_replicate hx

theorem Ctx.reset_subkey (p : Params) (k : Nat) : (Ctx.reset p).subkey k = Subkey.zero := subkey_zeroSched ..

end Sys2Proof.Machine

namespace Sys2Proof

open Machine

/-- Settles O15: a register access that finds the core BUSY stays on the host's side. -/
theorem hostCannotTouchRunningCommand : Obligations.HostCannotTouchRunningCommand := by
  intro s op hbusy hheld hop
  rw [hostAccess_busy_hostSideOnly hbusy hheld hop]
  exact ⟨rfl, hbusy, rfl, rfl, rfl, rfl, rfl, rfl, rfl, rfl⟩

/-- Settles O25: both kinds of reset leave the fields of `State.resetWith`, and every slot is `Ctx.reset`. -/
theorem resetValues : Obligations.ResetValues := by
  intro s t ht
  rw [reset_frame ht]
  refine ⟨rfl, rfl, rfl, rfl, rfl, rfl, rfl, rfl, statusWord_eq_zero rfl rfl rfl, rfl, rfl, rfl, List.length_replicate,
    fun x hx => ?_, fun _ => rfl, rfl, rfl⟩
  rw [resetWith_slot hx]
  exact ⟨rfl, rfl, rfl, (Ctx.reset_inv s.params).storage, Ctx.reset_subkey s.params⟩

/-- Settles O26: the base case of `stepKeepsInv`. -/
theorem resetMeetsInv : Obligations.ResetMeetsInv :=
  fun _ hlegal => State.resetWith_inv hlegal

end Sys2Proof
end
